-- ==== Sys2Proof/Word.lean ====
section
/-! DEFINITION. The word types of the PC-ALE-PAL resampler/CAT core: the byte of the wire formats, a frame as a
sequence of bytes, and the bit pattern of one floating-point sample. -/

namespace Sys2Proof

/-- One byte of a wire frame or of the receive buffer: bit 7 the most significant (R8). -/
abbrev Byte := BitVec 8

/-- One frame: the bytes handed to the byte sink in one invocation, first byte sent first (R8, R14). -/
abbrev Frame := List Byte

/-- The bit pattern of one value of format `FP` (R10, R60): IEEE 754 binary64 in all 64 bits, binary32 in the low 32
bits with the upper 32 bits zero. -/
abbrev Sample := BitVec 64

/-- The byte with the value `n` modulo 256. -/
abbrev byte (n : Nat) : Byte := BitVec.ofNat 8 n

end Sys2Proof
end

