-- ==== Sys2Proof/Syntax.lean ====
section
/-! DEFINITION. The operands and the operations of the hardware: the value types RadioMode, Channel and variant, and
`Instr`, one constructor per row of the spec's opcode table: 31 host operations (R100), 13 emitted frames (R101 to
R103) and 5 received patterns (R104). -/

namespace Sys2Proof

/-- The four CAT variants (R3): a strap, selected at configuration time. -/
inductive Variant where
  | kenwood
  | elecraft
  | icomCiv
  | yaesuCat
  deriving DecidableEq, Repr, Inhabited

/-- RadioMode, the closed enumeration of 15 modes, in the order of R23. -/
inductive RadioMode where
  | lsb
  | usb
  | cw
  | fm
  | fmw
  | am
  | fsk
  | rtty
  | cwR
  | tune
  | fskR
  | dig
  | dataLsb
  | dataUsb
  | unknown
  deriving DecidableEq, Repr, Inhabited

/-- Channel, the value type of nine scalar fields (R24).  The fields whose width is a parameter (`ID_W`, `FREQ_W`,
`ATT_W`) are naturals; `Machine/Operands.lean` says when one fits the widths of the unit's straps. -/
structure Channel where
  id : Nat
  txFrequency : Nat
  rxFrequency : Nat
  txMode : RadioMode
  rxMode : RadioMode
  antenna : BitVec 3
  power : BitVec 7
  attenuation : Nat
  inUse : Bool
  deriving DecidableEq, Repr, Inhabited

/-- The operations of the machine, one constructor per row of the opcode table. -/
inductive Instr where
  /-- CAT.INIT, `initialize() -> bool` (R132). -/
  | catInit
  /-- CAT.SHUTDOWN, `shutdown()` (R133). -/
  | catShutdown
  /-- CAT.START, `start() -> bool` (R134). -/
  | catStart
  /-- CAT.STOP, `stop() -> bool` (R135). -/
  | catStop
  /-- CAT.SETCH, `set_channel(Channel) -> bool` (R136). -/
  | catSetch (c : Channel)
  /-- CAT.GETCH, `get_channel() -> Channel` (R137). -/
  | catGetch
  /-- CAT.SETPTT, `set_ptt(bool)` (R138). -/
  | catSetptt (b : Bool)
  /-- CAT.ISTX, `is_transmitting() -> bool` (R140). -/
  | catIstx
  /-- CAT.ISRDY, `is_ready() -> bool` (R141). -/
  | catIsrdy
  /-- CAT.PORTCFG, `get_port_config() -> string` (R139). -/
  | catPortcfg
  /-- CAT.REGSEND, `register_send_callback` (R142): the operand is the identity of the byte sink (R31). -/
  | catRegsend (sink : Nat)
  /-- CAT.REGACK, `register_ack_callback` (R143): the operand is the identity of the callback (R32). -/
  | catRegack (cb : Nat)
  /-- CAT.RESP, `process_response(bytes)` (R144). -/
  | catResp (bytes : List Byte)
  /-- EL.SETPWR, the Elecraft power command (R208). -/
  | elSetpwr (watts : Nat)
  /-- EL.SETANT, the Elecraft antenna command (R209). -/
  | elSetant (antenna : Byte)
  /-- RS.CONSTRUCT with the ratio `r` and the taps per phase `t` (R260). -/
  | rsConstruct (r t : Nat)
  /-- RS.DECIMATE, `decimate(input, output)` (R263). -/
  | rsDecimate (input : List Sample)
  /-- RS.INTERP, `interpolate(input, output)` (R264). -/
  | rsInterp (input : List Sample)
  /-- RS.RESET, `reset()` (R265). -/
  | rsReset
  /-- FQ.ENC.CIV, Icom BCD frequency encode (R160). -/
  | fqEncCiv (f : Nat)
  /-- FQ.DEC.CIV, Icom BCD frequency decode of 5 bytes (R161). -/
  | fqDecCiv (bytes : List Byte)
  /-- FQ.ENC.YAE, Yaesu packed-BCD frequency encode (R162). -/
  | fqEncYae (f : Nat)
  /-- FQ.DEC.YAE, Yaesu packed-BCD frequency decode of 4 bytes (R163). -/
  | fqDecYae (bytes : List Byte)
  /-- FQ.ENC.KW, Kenwood 11-digit frequency encode (R164). -/
  | fqEncKw (f : Nat)
  /-- FQ.DEC.KW, Kenwood 11-digit frequency decode of 11 ASCII bytes (R165). -/
  | fqDecKw (bytes : List Byte)
  /-- MD.ENC.KW, Kenwood `radio_to_native` (R181). -/
  | mdEncKw (m : RadioMode)
  /-- MD.DEC.KW, Kenwood `native_to_radio` of a decimal digit (R182). -/
  | mdDecKw (d : Fin 10)
  /-- MD.ENC.CIV, Icom `radio_to_native` (R183). -/
  | mdEncCiv (m : RadioMode)
  /-- MD.DEC.CIV, Icom `native_to_radio` of a byte (R184). -/
  | mdDecCiv (code : Byte)
  /-- MD.ENC.YAE, Yaesu `radio_to_native` (R185). -/
  | mdEncYae (m : RadioMode)
  /-- MD.DEC.YAE, Yaesu `native_to_radio` of a byte (R186). -/
  | mdDecYae (code : Byte)
  /-- KW.FA, the Kenwood frequency frame; `f` is the value of its eleven digits (R201). -/
  | kwFa (f : Nat)
  /-- KW.MD, the Kenwood mode frame with its one digit (R202). -/
  | kwMd (code : Fin 10)
  /-- KW.TX, the literal frame "TX;" (R203). -/
  | kwTx
  /-- KW.RX, the literal frame "RX;" (R204). -/
  | kwRx
  /-- EL.PC, the Elecraft power frame; `watts` is the value of its three digits (R208). -/
  | elPc (watts : Nat)
  /-- EL.AN, the Elecraft antenna frame with its one digit (R209). -/
  | elAn (antenna : Fin 10)
  /-- CIV.FREQ, the Icom frequency frame to the radio address `rr`; `f` is the value of its ten digits (R221). -/
  | civFreq (rr : Byte) (f : Nat)
  /-- CIV.MODE, the Icom mode frame to the radio address `rr` with the mode code `mm` (R222). -/
  | civMode (rr mm : Byte)
  /-- CIV.PTT, the Icom transmit (`p`) or receive frame to the radio address `rr` (R223). -/
  | civPtt (rr : Byte) (p : Bool)
  /-- YAE.FREQ, the Yaesu frequency frame; `q` is the frequency in tens of hertz, eight digits (R241). -/
  | yaeFreq (q : Nat)
  /-- YAE.MODE, the Yaesu mode frame with the mode code `mm` (R242). -/
  | yaeMode (mm : Byte)
  /-- YAE.PTT_ON, the constant Yaesu transmit frame (R243). -/
  | yaePttOn
  /-- YAE.PTT_OFF, the constant Yaesu receive frame (R244). -/
  | yaePttOff
  /-- KW.RSP: the bytes `before` and then the terminator ';' arrive (R207). -/
  | kwRsp (before : List Byte)
  /-- CIV.ACK: the frame FE FE x y FB, `rest`, FD arrives (R227). -/
  | civAck (x y : Byte) (rest : List Byte)
  /-- CIV.NAK: the frame FE FE x y FA, `rest`, FD arrives (R228). -/
  | civNak (x y : Byte) (rest : List Byte)
  /-- CIV.OTHER: any other bytes `before` and then the end marker FD arrive (R229). -/
  | civOther (before : List Byte)
  /-- YAE.RSP: any non-empty byte sequence arrives in one call (R246). -/
  | yaeRsp (bytes : List Byte)
  deriving DecidableEq, Repr

end Sys2Proof
end

