-- ==== Sys2Proof/Config.lean ====
section
/-! DEFINITION. What an implementation fixes: the named parameters of R6 and R7, held together with the straps of R33
as plain data (`Straps`), and the one value the spec leaves free.  The parameters' default values stand in
`Machine/Defaults.lean`. -/

namespace Sys2Proof

/-- `FP`, the floating-point format (R7, D3). -/
inductive FpFormat where
  | binary32
  | binary64
  deriving DecidableEq, Repr, Inhabited

/-- The comparison of the overflow guard with the cap: more than the cap, or at least the cap (R145, D17). -/
inductive GuardCompare where
  | more
  | atLeast
  deriving DecidableEq, Repr, Inhabited

/-- Where the overflow guard stands: after every byte that is no terminator, after every byte and before the terminator
test, or once at the end of a call (the three that R145 says the source leaves open; D17). -/
inductive GuardPlace where
  | afterTest
  | beforeTest
  | callEnd
  deriving DecidableEq, Repr, Inhabited

/-- `RX_GUARD`, the exact comparison and placement of the overflow guard (R7, R145, D17). -/
structure RxGuard where
  compare : GuardCompare
  place : GuardPlace
  deriving DecidableEq, Repr, Inhabited

/-- A `radio_to_native` table (R180): the code of USB, and the modes that have an entry of their own.  A mode without
one takes the code of USB. -/
structure ModeCodes (α : Type) where
  usb : α
  entries : List (RadioMode × α)
  deriving DecidableEq, Repr

/-- One 5-byte Yaesu frame (R94, R240). -/
structure Yae5 where
  p1 : Byte
  p2 : Byte
  p3 : Byte
  p4 : Byte
  cmd : Byte
  deriving DecidableEq, Repr

/-- One entry of the parameter `COEFF` (R7, R260, D5): the coefficient vector of the resamplers built with the ratio
`r` and `t` taps per phase. -/
structure CoeffEntry where
  r : Nat
  t : Nat
  values : List Sample
  deriving DecidableEq, Repr

/-- `RXBUF_CAP` (R6). -/
def rxbufCap : Nat := 256

/-- The straps of a unit and the parameters of R7: fixed for its life, read by the operations, written by none. -/
structure Straps where
  /-- The CAT variant (R3, R33). -/
  variant : Variant
  /-- `CIV_RADIO_ADDR` (R33, D20). -/
  civRadioAddr : Byte
  /-- `SERIAL_PRESENT` (R33, D13). -/
  serialPresent : Bool
  /-- `FP` (D3). -/
  fp : FpFormat
  /-- `FREQ_W` (D8). -/
  freqW : Nat
  /-- `ID_W` (D8). -/
  idW : Nat
  /-- `ATT_W` (D8). -/
  attW : Nat
  /-- `RX_GUARD` (D17). -/
  rxGuard : RxGuard
  /-- `KW_MODE_CODE` (R181). -/
  kwModeCode : ModeCodes (Fin 10)
  /-- `KW_MODE_REV` (R182). -/
  kwModeRev : List (Fin 10 × RadioMode)
  /-- `CIV_MODE_CODE` (R183). -/
  civModeCode : ModeCodes Byte
  /-- `CIV_MODE_REV` (R184). -/
  civModeRev : List (Byte × RadioMode)
  /-- `YAE_MODE_CODE` (R185). -/
  yaeModeCode : ModeCodes Byte
  /-- `YAE_MODE_REV` (R186). -/
  yaeModeRev : List (Byte × RadioMode)
  /-- `YAE_PTT_ON_FRAME` (R243, D12). -/
  yaePttOn : Yae5
  /-- `YAE_PTT_OFF_FRAME` (R244, D12). -/
  yaePttOff : Yae5
  /-- `COEFF` (D5): the vectors that take the place of the reference formula; none by default. -/
  coeffTable : List CoeffEntry
  deriving DecidableEq, Repr

/-- FREE VALUES (U1, R35): what CAT.GETCH of a unit returns before any successful CAT.SETCH, one unconstrained Channel
for each construction of a unit.  No body: nothing can be proved of it. -/
opaque Config.unspecifiedChannel : Nat → Channel

end Sys2Proof
end

