-- ==== Sys2Proof/Machine/Operands.lean ====
section
/-! DEFINITION. Operand assembly: decimal digits, BCD bytes, ASCII decimal fields (R9, R96, R99), and when a typed
operand fits the widths of the unit (R24). -/

namespace Sys2Proof.Machine

/-- `digit(f, k)`, the decimal digit of weight `10^k` (R9). -/
def digit (f k : Nat) : Nat := f / 10 ^ k % 10

/-- `bcd(t, u) = (t << 4) | u`, the tens digit in the high nibble (R66, R96). -/
def bcd (t u : Nat) : Byte := byte t <<< 4 ||| byte u

/-- The tens digit of a BCD byte, `b[7:4]` (R96). -/
def bcdTens (b : Byte) : Nat := (b.extractLsb' 4 4).toNat

/-- The units digit of a BCD byte, `b[3:0]` (R96). -/
def bcdUnits (b : Byte) : Nat := (b.extractLsb' 0 4).toNat

/-- Whether both nibbles are decimal digits: a byte with a nibble above 9 is not a BCD byte (R96). -/
def isBcd (b : Byte) : Bool := bcdTens b ≤ 9 && bcdUnits b ≤ 9

/-- The ASCII character of a decimal digit (R92, R99). -/
def ascDigit (d : Nat) : Byte := 0x30#8 + byte d

/-- Whether a byte is one of the ASCII characters '0' to '9' (R92). -/
def isAscDigit (c : Byte) : Bool := 0x30 ≤ c.toNat && c.toNat ≤ 0x39

/-- The digit an ASCII character stands for (R165). -/
def ascValue (c : Byte) : Nat := c.toNat - 0x30

/-- `asc(v, w)`, the ASCII decimal field of width `w`, most significant digit first, zero-padded on the left (R99). -/
def asc (v : Nat) : Nat → List Byte
  | 0 => []
  | w + 1 => ascDigit (digit v w) :: asc v w

/-- The value of a decimal field, most significant digit first (R165). -/
def ascFieldValue (cs : List Byte) : Nat := cs.foldl (fun f c => f * 10 + ascValue c) 0

/-- A Channel is a value of the unit's Channel type: each field of a parametric width fits it (R24, D8). -/
def channelFits (p : Straps) (c : Channel) : Bool :=
  c.id < 2 ^ p.idW && c.txFrequency < 2 ^ p.freqW && c.rxFrequency < 2 ^ p.freqW && c.attenuation < 2 ^ p.attW

/-- An unsigned integer is a frequency of the unit: it fits `FREQ_W` bits (R9). -/
def freqFits (p : Straps) (f : Nat) : Bool := f < 2 ^ p.freqW

end Sys2Proof.Machine
end

