-- ==== Sys2Proof/Machine/Codec.lean ====
section
/-! DEFINITION. The pure codec functions: the frequency encoders and decoders of R160 to R165 and the look-up of the
mode tables of R180 to R186. -/

namespace Sys2Proof.Machine

/-- Icom frequency encode: 5 BCD bytes, least significant byte first (R160). -/
def encCiv (f : Nat) : List Byte :=
  (List.range 5).map fun i => bcd (digit f (2 * i + 1)) (digit f (2 * i))

/-- The two decimal digits of a BCD byte as a number (R161, R163). -/
def bcdValue (b : Byte) : Nat := 10 * bcdTens b + bcdUnits b

/-- The number whose base-100 digits are the bytes, least significant first (R161). -/
def bcdLsbValue : List Byte → Nat
  | [] => 0
  | b :: bs => bcdValue b + 100 * bcdLsbValue bs

/-- The number whose base-100 digits are the bytes, most significant first (R163). -/
def bcdMsbValue (bs : List Byte) : Nat := bs.foldl (fun q b => q * 100 + bcdValue b) 0

/-- Icom frequency decode (R161); none for bytes that are not 5 BCD bytes (D23). -/
def decCiv (bs : List Byte) : Option Nat :=
  if bs.length = 5 ∧ bs.all isBcd then some (bcdLsbValue bs) else none

/-- The four Yaesu bytes of a frequency in tens of hertz, most significant byte first (R98, R162). -/
def encYaeTens (q : Nat) : List Byte :=
  (List.range 4).map fun j => bcd (digit q (7 - 2 * j)) (digit q (6 - 2 * j))

/-- Yaesu frequency encode: the 1 Hz digit is truncated (R162). -/
def encYae (f : Nat) : List Byte := encYaeTens (f / 10)

/-- The tens of hertz that four Yaesu bytes stand for (R163); none for bytes that are not 4 BCD bytes (D23). -/
def decYaeTens (bs : List Byte) : Option Nat :=
  if bs.length = 4 ∧ bs.all isBcd then some (bcdMsbValue bs) else none

/-- Yaesu frequency decode, in hertz (R163). -/
def decYae (bs : List Byte) : Option Nat := (decYaeTens bs).map (· * 10)

/-- Kenwood frequency encode: eleven ASCII digits, most significant first (R164). -/
def encKw (f : Nat) : List Byte := asc f 11

/-- The value of exactly `w` ASCII digits; none for anything else (R165, D23). -/
def decAsc (w : Nat) (cs : List Byte) : Option Nat :=
  if cs.length = w ∧ cs.all isAscDigit then some (ascFieldValue cs) else none

/-- Kenwood frequency decode (R165). -/
def decKw (cs : List Byte) : Option Nat := decAsc 11 cs

/-- `radio_to_native`: the mode's entry, else the code of USB (R180, R181 K4, R183 I6). -/
def encodeMode {α : Type} (t : ModeCodes α) (m : RadioMode) : α :=
  if m = .usb then t.usb else (t.entries.lookup m).getD t.usb

/-- Whether a mode has an entry of its own in a `radio_to_native` table. -/
def isMapped {α : Type} (t : ModeCodes α) (m : RadioMode) : Bool :=
  m = .usb || (t.entries.lookup m).isSome

/-- `native_to_radio`: the code's entry, else USB (R180, R182 K7, R184 I10). -/
def decodeMode {α : Type} [DecidableEq α] (t : List (α × RadioMode)) (code : α) : RadioMode :=
  (t.lookup code).getD .usb

end Sys2Proof.Machine
end

