-- ==== Sys2Proof/Machine/Wire.lean ====
section
/-! DEFINITION. The frame builders: every emitted frame of R101, R102 and R103 as bytes in wire order. -/

namespace Sys2Proof.Machine

/-- The ASCII command terminator ';' (R6, R92). -/
def kwTerm : Byte := 0x3B

/-- The CI-V end marker (R6, R93). -/
def civEom : Byte := 0xFD

/-- `kw_send`'s frame: the command letters, the digits, the terminator (R200). -/
def kwFrame (cmd digits : List Byte) : Frame := cmd ++ digits ++ [kwTerm]

/-- KW.FA: "FA", eleven digits, ";" (R201). -/
def kwFaFrame (f : Nat) : Frame := kwFrame [0x46, 0x41] (encKw f)

/-- KW.MD: "MD", one digit, ";" (R202). -/
def kwMdFrame (code : Fin 10) : Frame := kwFrame [0x4D, 0x44] [ascDigit code.val]

/-- KW.TX: "TX;" (R203). -/
def kwTxFrame : Frame := kwFrame [0x54, 0x58] []

/-- KW.RX: "RX;" (R204). -/
def kwRxFrame : Frame := kwFrame [0x52, 0x58] []

/-- EL.PC: "PC", three digits, ";" (R208). -/
def elPcFrame (watts : Nat) : Frame := kwFrame [0x50, 0x43] (asc watts 3)

/-- EL.AN: "AN", one digit, ";" (R209). -/
def elAnFrame (antenna : Nat) : Frame := kwFrame [0x41, 0x4E] [ascDigit antenna]

/-- `civ_frame`: preamble twice, radio address, controller address E0, body, end marker (R220). -/
def civFrame (rr : Byte) (body : List Byte) : Frame := [0xFE, 0xFE, rr, 0xE0] ++ body ++ [civEom]

/-- CIV.FREQ: command 05, five BCD bytes (R221). -/
def civFreqFrame (rr : Byte) (f : Nat) : Frame := civFrame rr (0x05 :: encCiv f)

/-- CIV.MODE: command 06, one mode byte (R222). -/
def civModeFrame (rr mm : Byte) : Frame := civFrame rr [0x06, mm]

/-- CIV.PTT: command 1C, subcommand 00, 01 to transmit and 00 to receive (R223). -/
def civPttFrame (rr : Byte) (p : Bool) : Frame := civFrame rr [0x1C, 0x00, if p then 0x01 else 0x00]

/-- YAE.FREQ from the frequency in tens of hertz: four BCD bytes, command 01 (R241). -/
def yaeFreqFrame (q : Nat) : Frame := encYaeTens q ++ [0x01]

/-- YAE.MODE: the mode byte, three zero bytes, command 07 (R242). -/
def yaeModeFrame (mm : Byte) : Frame := [mm, 0x00, 0x00, 0x00, 0x07]

/-- A 5-byte Yaesu frame in wire order (R240). -/
def yae5Frame (y : Yae5) : Frame := [y.p1, y.p2, y.p3, y.p4, y.cmd]

end Sys2Proof.Machine
end

