-- ==== Sys2Proof/WellFormed.lean ====
section
/-! DEFINITION. When an operation is well formed: its operands are ones its row of the opcode table can carry.  Beside
it, the columns of the table that the other files use: an operation's variants and its direction. -/

namespace Sys2Proof

/-- The direction column of the opcode table (R109): a host operation, a frame the unit emits, a pattern it receives. -/
inductive Direction where
  | host
  | tx
  | rx
  deriving DecidableEq, Repr, Inhabited

/-- A natural number that the length-prefixed operand form of `Decode.lean` can carry: at most 255 bytes. -/
def fitsOperand (n : Nat) : Bool := n < 2 ^ 2040

/-- The byte sequence is not one CIV.ACK or CIV.NAK recognises before its end marker (R229). -/
def isOtherCivBody : List Byte → Bool
  | b0 :: b1 :: _ :: _ :: code :: _ => !(b0 = 0xFE && b1 = 0xFE && (code = 0xFB || code = 0xFA))
  | _ => true

/-- Well-formedness of an operation, row by row of the opcode table. -/
def Instr.wellFormed : Instr → Bool
  | .catSetch c =>
    fitsOperand c.id && fitsOperand c.txFrequency && fitsOperand c.rxFrequency && fitsOperand c.attenuation
  | .catRegsend k => fitsOperand k
  | .catRegack k => fitsOperand k
  | .catResp bs => fitsOperand bs.length
  | .elSetpwr w => fitsOperand w
  | .rsConstruct r t => fitsOperand r && fitsOperand t
  | .rsDecimate xs => fitsOperand xs.length
  | .rsInterp xs => fitsOperand xs.length
  | .fqEncCiv f => fitsOperand f
  | .fqDecCiv bs => bs.length = 5
  | .fqEncYae f => fitsOperand f
  | .fqDecYae bs => bs.length = 4
  | .fqEncKw f => fitsOperand f
  | .fqDecKw cs => cs.length = 11
  | .kwFa f => f < 10 ^ 11
  | .elPc w => w < 10 ^ 3
  | .civFreq _ f => f < 10 ^ 10
  | .yaeFreq q => q < 10 ^ 8
  | .kwRsp before => !before.contains 0x3B
  | .civAck x y rest => !(x :: y :: rest).contains 0xFD
  | .civNak x y rest => !(x :: y :: rest).contains 0xFD
  | .civOther before => !before.contains 0xFD && isOtherCivBody before
  | .yaeRsp bs => bs ≠ []
  | .catInit | .catShutdown | .catStart | .catStop | .catGetch | .catSetptt _ | .catIstx | .catIsrdy | .catPortcfg
  | .elSetant _ | .rsReset | .mdEncKw _ | .mdDecKw _ | .mdEncCiv _ | .mdDecCiv _ | .mdEncYae _ | .mdDecYae _
  | .kwMd _ | .kwTx | .kwRx | .elAn _ | .civMode _ _ | .civPtt _ _ | .yaeMode _ | .yaePttOn | .yaePttOff => true

/-- The direction of an operation's row. -/
def Instr.direction : Instr → Direction
  | .kwFa _ | .kwMd _ | .kwTx | .kwRx | .elPc _ | .elAn _ | .civFreq _ _ | .civMode _ _ | .civPtt _ _ | .yaeFreq _
  | .yaeMode _ | .yaePttOn | .yaePttOff => .tx
  | .kwRsp _ | .civAck _ _ _ | .civNak _ _ _ | .civOther _ | .yaeRsp _ => .rx
  | .catInit | .catShutdown | .catStart | .catStop | .catSetch _ | .catGetch | .catSetptt _ | .catIstx | .catIsrdy
  | .catPortcfg | .catRegsend _ | .catRegack _ | .catResp _ | .elSetpwr _ | .elSetant _ | .rsConstruct _ _
  | .rsDecimate _ | .rsInterp _ | .rsReset | .fqEncCiv _ | .fqDecCiv _ | .fqEncYae _ | .fqDecYae _ | .fqEncKw _
  | .fqDecKw _ | .mdEncKw _ | .mdDecKw _ | .mdEncCiv _ | .mdDecCiv _ | .mdEncYae _ | .mdDecYae _ => .host

/-- The variants that have an operation's row (the `variants` column; R100 to R104).  The resampler operations and the
pure functions do not depend on the variant: all four. -/
def Instr.variants : Instr → List Variant
  | .elSetpwr _ | .elSetant _ | .elPc _ | .elAn _ => [.elecraft]
  | .kwFa _ | .kwMd _ | .kwTx | .kwRx | .kwRsp _ => [.kenwood, .elecraft]
  | .civFreq _ _ | .civMode _ _ | .civPtt _ _ | .civAck _ _ _ | .civNak _ _ _ | .civOther _ => [.icomCiv]
  | .yaeFreq _ | .yaeMode _ | .yaePttOn | .yaePttOff | .yaeRsp _ => [.yaesuCat]
  | .catInit | .catShutdown | .catStart | .catStop | .catSetch _ | .catGetch | .catSetptt _ | .catIstx | .catIsrdy
  | .catPortcfg | .catRegsend _ | .catRegack _ | .catResp _ | .rsConstruct _ _
  | .rsDecimate _ | .rsInterp _ | .rsReset | .fqEncCiv _ | .fqDecCiv _ | .fqEncYae _ | .fqDecYae _ | .fqEncKw _
  | .fqDecKw _ | .mdEncKw _ | .mdDecKw _ | .mdEncCiv _ | .mdDecCiv _ | .mdEncYae _ | .mdDecYae _ =>
    [.kenwood, .elecraft, .icomCiv, .yaesuCat]

end Sys2Proof
end

