-- ==== Sys2Proof/Decode.lean ====
section
/-! DEFINITION. The decoder, total on any request, and the encoder.  A host operation is its `op` byte (R100) followed
by the model's own byte form of its typed operands (R91 gives them no bits: assumption log 2); an emitted frame and a
received pattern are their bytes on the wire (R101 to R104). -/

namespace Sys2Proof

open Machine

/-- One request to the unit: bytes and the direction they belong to. -/
structure Request where
  dir : Direction
  bytes : List Byte
  deriving DecidableEq, Repr

/-- Why a request decodes to no operation. -/
inductive DecodeError where
  /-- No byte at all where an `op` code is due. -/
  | emptyRequest
  /-- An `op` code that is not in R100 (R105 (a), U2). -/
  | unknownOperation (op : Byte)
  /-- The request ends inside an operand. -/
  | truncatedOperand
  /-- Bytes are left over after the last operand. -/
  | surplusBytes
  /-- A boolean operand byte other than 0 and 1. -/
  | badBool (b : Byte)
  /-- A mode field that is not a RadioMode: 15 and above (R23, U14). -/
  | badRadioMode (b : Byte)
  /-- A decimal digit operand above 9 (R182). -/
  | badDigit (b : Byte)
  /-- An antenna or power field wider than its 3 or 7 bits (R24). -/
  | fieldTooWide (b : Byte)
  /-- Bytes that are no frame of R101 to R103. -/
  | unknownFrame
  deriving DecidableEq, Repr

/-- The result of reading one operand: its value and the bytes that follow it. -/
abbrev Parsed (α : Type) := Except DecodeError (α × List Byte)

/-- Read on with the value read and the bytes that follow it. -/
def andThen {α β : Type} (p : Parsed α) (f : α → List Byte → Parsed β) : Parsed β :=
  match p with
  | .error e => .error e
  | .ok (a, rest) => f a rest

/-- One byte. -/
def takeByte : List Byte → Parsed Byte
  | [] => .error .truncatedOperand
  | b :: bs => .ok (b, bs)

/-- Exactly `n` bytes. -/
def takeBytes : Nat → List Byte → Parsed (List Byte)
  | 0, bs => .ok ([], bs)
  | _ + 1, [] => .error .truncatedOperand
  | n + 1, b :: bs => andThen (takeBytes n bs) fun xs rest => .ok (b :: xs, rest)

/-- The number whose base-256 digits are the bytes, least significant first. -/
def leValue : List Byte → Nat
  | [] => 0
  | b :: bs => b.toNat + 256 * leValue bs

/-- The `k` low base-256 digits of `n`, least significant first. -/
def leBytes : Nat → Nat → List Byte
  | 0, _ => []
  | k + 1, n => byte n :: leBytes k (n / 256)

/-- How many bytes a number takes: none for 0. -/
def byteLength (n : Nat) : Nat := if n = 0 then 0 else n.log2 / 8 + 1

/-- A natural number: a length byte, then that many bytes, least significant first. -/
def putNat (n : Nat) : List Byte := byte (byteLength n) :: leBytes (byteLength n) n

/-- A natural number, as `putNat` writes it. -/
def takeNat (bs : List Byte) : Parsed Nat :=
  andThen (takeByte bs) fun k bs => andThen (takeBytes k.toNat bs) fun xs rest => .ok (leValue xs, rest)

/-- An operand with a default (R260: `R` default 6, `T` default 8): a 0 byte for the default, else a 1 byte and a
number. -/
def takeNatOr (dflt : Nat) (bs : List Byte) : Parsed Nat :=
  andThen (takeByte bs) fun tag bs =>
    if tag = 0 then .ok (dflt, bs) else if tag = 1 then takeNat bs else .error (.badBool tag)

/-- A number, as `takeNatOr` reads it. -/
def putNatSome (n : Nat) : List Byte := 0x01 :: putNat n

/-- A boolean: one byte, 0 or 1. -/
def takeBool (bs : List Byte) : Parsed Bool :=
  andThen (takeByte bs) fun b rest =>
    if b = 0 then .ok (false, rest) else if b = 1 then .ok (true, rest) else .error (.badBool b)

/-- A boolean, as `takeBool` reads it. -/
def putBool (b : Bool) : List Byte := [if b then 0x01 else 0x00]

/-- The RadioMode of a number (R23); none for 15 and above. -/
def radioModeOf : Nat → Option RadioMode
  | 0 => some .lsb
  | 1 => some .usb
  | 2 => some .cw
  | 3 => some .fm
  | 4 => some .fmw
  | 5 => some .am
  | 6 => some .fsk
  | 7 => some .rtty
  | 8 => some .cwR
  | 9 => some .tune
  | 10 => some .fskR
  | 11 => some .dig
  | 12 => some .dataLsb
  | 13 => some .dataUsb
  | 14 => some .unknown
  | _ => none

/-- The number of a RadioMode (R23). -/
def radioModeNumber : RadioMode → Nat
  | .lsb => 0
  | .usb => 1
  | .cw => 2
  | .fm => 3
  | .fmw => 4
  | .am => 5
  | .fsk => 6
  | .rtty => 7
  | .cwR => 8
  | .tune => 9
  | .fskR => 10
  | .dig => 11
  | .dataLsb => 12
  | .dataUsb => 13
  | .unknown => 14

/-- A RadioMode: one byte holding its number. -/
def takeMode (bs : List Byte) : Parsed RadioMode :=
  andThen (takeByte bs) fun b rest =>
    match radioModeOf b.toNat with
    | some m => .ok (m, rest)
    | none => .error (.badRadioMode b)

/-- A RadioMode, as `takeMode` reads it. -/
def putMode (m : RadioMode) : List Byte := [byte (radioModeNumber m)]

/-- A decimal digit: one byte, 0 to 9 (R182). -/
def takeDigit (bs : List Byte) : Parsed (Fin 10) :=
  andThen (takeByte bs) fun b rest =>
    if h : b.toNat < 10 then .ok (⟨b.toNat, h⟩, rest) else .error (.badDigit b)

/-- A field of `w` bits in one byte. -/
def takeField (w : Nat) (bs : List Byte) : Parsed (BitVec w) :=
  andThen (takeByte bs) fun b rest =>
    if b.toNat < 2 ^ w then .ok (BitVec.ofNat w b.toNat, rest) else .error (.fieldTooWide b)

/-- `n` samples, eight bytes each, least significant first. -/
def takeSamples : Nat → List Byte → Parsed (List Sample)
  | 0, bs => .ok ([], bs)
  | n + 1, bs =>
    andThen (takeBytes 8 bs) fun x rest =>
      andThen (takeSamples n rest) fun xs rest => .ok (BitVec.ofNat 64 (leValue x) :: xs, rest)

/-- Samples, as `takeSamples` reads them. -/
def putSamples : List Sample → List Byte
  | [] => []
  | x :: xs => leBytes 8 x.toNat ++ putSamples xs

/-- A Channel: its nine fields in the order of R24. -/
def takeChannel (bs : List Byte) : Parsed Channel :=
  andThen (takeNat bs) fun id bs => andThen (takeNat bs) fun txf bs => andThen (takeNat bs) fun rxf bs =>
  andThen (takeMode bs) fun txm bs => andThen (takeMode bs) fun rxm bs => andThen (takeField 3 bs) fun ant bs =>
  andThen (takeField 7 bs) fun pow bs => andThen (takeNat bs) fun att bs => andThen (takeBool bs) fun use bs =>
    .ok (⟨id, txf, rxf, txm, rxm, ant, pow, att, use⟩, bs)

/-- A Channel, as `takeChannel` reads it. -/
def putChannel (c : Channel) : List Byte :=
  putNat c.id ++ putNat c.txFrequency ++ putNat c.rxFrequency ++ putMode c.txMode ++ putMode c.rxMode ++
    [byte c.antenna.toNat] ++ [byte c.power.toNat] ++ putNat c.attenuation ++ putBool c.inUse

/-- An operation made of one operand. -/
def operand {α : Type} (p : Parsed α) (f : α → Instr) : Parsed Instr := andThen p fun a rest => .ok (f a, rest)

/-- A host operation and the bytes that follow it: the `op` codes of R100. -/
def decodeOperation (op : Byte) (bs : List Byte) : Parsed Instr :=
  match op.toNat with
  | 0x00 => .ok (.catInit, bs)
  | 0x01 => .ok (.catShutdown, bs)
  | 0x02 => .ok (.catStart, bs)
  | 0x03 => .ok (.catStop, bs)
  | 0x04 => operand (takeChannel bs) .catSetch
  | 0x05 => .ok (.catGetch, bs)
  | 0x06 => operand (takeBool bs) .catSetptt
  | 0x07 => .ok (.catIstx, bs)
  | 0x08 => .ok (.catIsrdy, bs)
  | 0x09 => .ok (.catPortcfg, bs)
  | 0x0A => operand (takeNat bs) .catRegsend
  | 0x0B => operand (takeNat bs) .catRegack
  | 0x0C => andThen (takeNat bs) fun n bs => operand (takeBytes n bs) .catResp
  | 0x0D => operand (takeNat bs) .elSetpwr
  | 0x0E => operand (takeByte bs) fun b => .elSetant (b + 1)
  | 0x10 => andThen (takeNatOr 6 bs) fun r bs => operand (takeNatOr 8 bs) (.rsConstruct r)
  | 0x11 => andThen (takeNat bs) fun n bs => operand (takeSamples n bs) .rsDecimate
  | 0x12 => andThen (takeNat bs) fun n bs => operand (takeSamples n bs) .rsInterp
  | 0x13 => .ok (.rsReset, bs)
  | 0x20 => operand (takeNat bs) .fqEncCiv
  | 0x21 => operand (takeBytes 5 bs) .fqDecCiv
  | 0x22 => operand (takeNat bs) .fqEncYae
  | 0x23 => operand (takeBytes 4 bs) .fqDecYae
  | 0x24 => operand (takeNat bs) .fqEncKw
  | 0x25 => operand (takeBytes 11 bs) fun cs => .fqDecKw (cs.map (· + 0x30))
  | 0x28 => operand (takeMode bs) .mdEncKw
  | 0x29 => operand (takeDigit bs) .mdDecKw
  | 0x2A => operand (takeMode bs) .mdEncCiv
  | 0x2B => operand (takeByte bs) .mdDecCiv
  | 0x2C => operand (takeMode bs) .mdEncYae
  | 0x2D => operand (takeByte bs) .mdDecYae
  | _ => .error (.unknownOperation op)

/-- A host operation at the front of a byte sequence, and the bytes that follow it. -/
def decodeHostFront : List Byte → Parsed Instr
  | [] => .error .emptyRequest
  | op :: bs => decodeOperation op bs

/-- A host request: one operation, nothing after it. -/
def decodeHost (bs : List Byte) : Except DecodeError Instr :=
  match decodeHostFront bs with
  | .error e => .error e
  | .ok (i, []) => .ok i
  | .ok (_, _ :: _) => .error .surplusBytes

/-- A `KWA` frame from its two command letters and its parameter characters (R92, R101). -/
def decodeKwBody (c0 c1 : Byte) (digits : List Byte) : Option Instr :=
  if c0 = 0x46 ∧ c1 = 0x41 then (decAsc 11 digits).map .kwFa
  else if c0 = 0x4D ∧ c1 = 0x44 then (decAsc 1 digits).map fun d => .kwMd (Fin.ofNat 10 d)
  else if c0 = 0x54 ∧ c1 = 0x58 then (if digits = [] then some .kwTx else none)
  else if c0 = 0x52 ∧ c1 = 0x58 then (if digits = [] then some .kwRx else none)
  else if c0 = 0x50 ∧ c1 = 0x43 then (decAsc 3 digits).map .elPc
  else if c0 = 0x41 ∧ c1 = 0x4E then (decAsc 1 digits).map fun d => .elAn (Fin.ofNat 10 d)
  else none

/-- A `KWA` frame (R92). -/
def decodeKwFrame : List Byte → Option Instr
  | c0 :: c1 :: rest => if rest.getLast? = some kwTerm then decodeKwBody c0 c1 rest.dropLast else none
  | _ => none

/-- A `CIV` frame from its radio address and the bytes between the addresses and the end marker (R93, R102). -/
def decodeCivBody (rr : Byte) : List Byte → Option Instr
  | [cmd, mm] => if cmd = 0x06 then some (.civMode rr mm) else none
  | [cmd, sub, pp] =>
    if cmd = 0x1C ∧ sub = 0x00 then
      (if pp = 0x01 then some (.civPtt rr true) else if pp = 0x00 then some (.civPtt rr false) else none)
    else none
  | cmd :: data => if cmd = 0x05 then (decCiv data).map (.civFreq rr) else none
  | [] => none

/-- A `CIV` frame (R93). -/
def decodeCivFrame : List Byte → Option Instr
  | b0 :: b1 :: rr :: ctrl :: rest =>
    if b0 = 0xFE ∧ b1 = 0xFE ∧ ctrl = 0xE0 ∧ rest.getLast? = some civEom then decodeCivBody rr rest.dropLast else none
  | _ => none

/-- A `YAE5` frame (R94, R103). -/
def decodeYaeFrame (p1 p2 p3 p4 cmd : Byte) : Option Instr :=
  if cmd = 0x01 then (decYaeTens [p1, p2, p3, p4]).map .yaeFreq
  else if p2 = 0x00 ∧ p3 = 0x00 ∧ p4 = 0x00 then
    (if cmd = 0x07 then some (.yaeMode p1)
    else if cmd = 0x08 ∧ p1 = 0x00 then some .yaePttOn
    else if cmd = 0x88 ∧ p1 = 0x00 then some .yaePttOff
    else none)
  else none

/-- An emitted frame: five bytes are a Yaesu frame, a preamble begins a CI-V frame, all else is ASCII (R101 to R103). -/
def decodeTx : List Byte → Except DecodeError Instr
  | [p1, p2, p3, p4, cmd] => ((decodeYaeFrame p1 p2 p3 p4 cmd).map Except.ok).getD (.error .unknownFrame)
  | bs =>
    ((if bs.head? = some 0xFE then decodeCivFrame bs else decodeKwFrame bs).map Except.ok).getD (.error .unknownFrame)

/-- The pattern a CI-V frame without its end marker belongs to (R227 to R229). -/
def classifyCiv : List Byte → Instr
  | b0 :: b1 :: x :: y :: code :: rest =>
    if b0 = 0xFE ∧ b1 = 0xFE then
      (if code = 0xFB then .civAck x y rest
      else if code = 0xFA then .civNak x y rest
      else .civOther (b0 :: b1 :: x :: y :: code :: rest))
    else .civOther (b0 :: b1 :: x :: y :: code :: rest)
  | bs => .civOther bs

/-- Received bytes: the variant's pattern if they are one (R104), else the bytes of a CAT.RESP: on receive there is no
illegal encoding (R105 (c)). -/
def decodeRx (v : Variant) (bs : List Byte) : Instr :=
  match v with
  | .kenwood | .elecraft =>
    if bs.getLast? = some kwTerm ∧ ¬ kwTerm ∈ bs.dropLast then .kwRsp bs.dropLast else .catResp bs
  | .icomCiv =>
    if bs.getLast? = some civEom ∧ ¬ civEom ∈ bs.dropLast then classifyCiv bs.dropLast else .catResp bs
  | .yaesuCat => if bs = [] then .catResp bs else .yaeRsp bs

/-- The operation a request asks of a unit of the variant `v`. -/
def decode (v : Variant) (q : Request) : Except DecodeError Instr :=
  match q.dir with
  | .host => decodeHost q.bytes
  | .tx => decodeTx q.bytes
  | .rx => .ok (decodeRx v q.bytes)

/-- The bytes of an operation: for a host operation its `op` code (R100) and its operands, for a frame or a pattern its
bytes on the wire. -/
def encodeBytes : Instr → List Byte
  | .catInit => [0x00]
  | .catShutdown => [0x01]
  | .catStart => [0x02]
  | .catStop => [0x03]
  | .catSetch c => 0x04 :: putChannel c
  | .catGetch => [0x05]
  | .catSetptt b => 0x06 :: putBool b
  | .catIstx => [0x07]
  | .catIsrdy => [0x08]
  | .catPortcfg => [0x09]
  | .catRegsend k => 0x0A :: putNat k
  | .catRegack k => 0x0B :: putNat k
  | .catResp bs => 0x0C :: putNat bs.length ++ bs
  | .elSetpwr w => 0x0D :: putNat w
  | .elSetant a => [0x0E, a - 1]
  | .rsConstruct r t => 0x10 :: putNatSome r ++ putNatSome t
  | .rsDecimate xs => 0x11 :: putNat xs.length ++ putSamples xs
  | .rsInterp xs => 0x12 :: putNat xs.length ++ putSamples xs
  | .rsReset => [0x13]
  | .fqEncCiv f => 0x20 :: putNat f
  | .fqDecCiv bs => 0x21 :: bs
  | .fqEncYae f => 0x22 :: putNat f
  | .fqDecYae bs => 0x23 :: bs
  | .fqEncKw f => 0x24 :: putNat f
  | .fqDecKw cs => 0x25 :: cs.map (· - 0x30)
  | .mdEncKw m => 0x28 :: putMode m
  | .mdDecKw d => [0x29, byte d.val]
  | .mdEncCiv m => 0x2A :: putMode m
  | .mdDecCiv code => [0x2B, code]
  | .mdEncYae m => 0x2C :: putMode m
  | .mdDecYae code => [0x2D, code]
  | .kwFa f => kwFaFrame f
  | .kwMd code => kwMdFrame code
  | .kwTx => kwTxFrame
  | .kwRx => kwRxFrame
  | .elPc w => elPcFrame w
  | .elAn a => elAnFrame a.val
  | .civFreq rr f => civFreqFrame rr f
  | .civMode rr mm => civModeFrame rr mm
  | .civPtt rr p => civPttFrame rr p
  | .yaeFreq q => yaeFreqFrame q
  | .yaeMode mm => yaeModeFrame mm
  | .yaePttOn => [0x00, 0x00, 0x00, 0x00, 0x08]
  | .yaePttOff => [0x00, 0x00, 0x00, 0x00, 0x88]
  | .kwRsp before => before ++ [kwTerm]
  | .civAck x y rest => [0xFE, 0xFE, x, y, 0xFB] ++ rest ++ [civEom]
  | .civNak x y rest => [0xFE, 0xFE, x, y, 0xFA] ++ rest ++ [civEom]
  | .civOther before => before ++ [civEom]
  | .yaeRsp bs => bs

/-- The request that asks for an operation. -/
def encode (i : Instr) : Request := ⟨i.direction, encodeBytes i⟩

/-- The bytes of a table row's bits `w`: `n` bytes, the first byte in the most significant place, as the table numbers
the rows wider than one byte (assumption log 4). -/
def tableBytes (n w : Nat) : List Byte := (leBytes n w).reverse

/-- Zero bytes enough for the operands of any host operation whose operands are zero. -/
def zeroOperands : List Byte := List.replicate 16 0x00

/-- The request of a host row: the `op` byte and exactly as many zero operand bytes as it takes. -/
def hostRowRequest (op : Byte) : Option Request :=
  match decodeOperation op zeroOperands with
  | .ok (_, rest) => some ⟨.host, op :: zeroOperands.take (16 - rest.length)⟩
  | .error _ => none

/-- The request of a received row, for the first variant of R104 whose pattern the bytes are. -/
def rxRowRequest (bs : List Byte) : Option (Variant × Request) :=
  if bs = [] then none
  else if bs.getLast? = some kwTerm then some (.kenwood, ⟨.rx, bs⟩)
  else if bs.getLast? = some civEom then some (.icomCiv, ⟨.rx, bs⟩)
  else some (.yaesuCat, ⟨.rx, bs⟩)

/-- The request that presents the bytes of a table row: a host operation, else an emitted frame, else a received
pattern; for the received rows the variant that has the pattern. -/
def rowRequest (bs : List Byte) : Option (Variant × Request) :=
  match bs with
  | [op] =>
    match hostRowRequest op with
    | some q => some (.elecraft, q)
    | none => rxRowRequest bs
  | _ =>
    match decodeTx bs with
    | .ok _ => some (.elecraft, ⟨.tx, bs⟩)
    | .error _ => rxRowRequest bs

/-- Whether the bytes, in this order, are a frame: an emitted one, or a CI-V frame from preamble to end marker. -/
def isFrame (bs : List Byte) : Bool :=
  match decodeTx bs with
  | .ok _ => true
  | .error _ => bs.take 2 = [0xFE, 0xFE] && bs.getLast? = some civEom

/-- The request of the bits `w` of a table row of `nbits` bits: the bytes in the table's order; in the other order where
only that one is a frame. -/
def tableRequest (nbits w : Nat) : Option (Variant × Request) :=
  if isFrame (leBytes (nbits / 8) w) ∧ ¬ isFrame (tableBytes (nbits / 8) w) then rowRequest (leBytes (nbits / 8) w)
  else rowRequest (tableBytes (nbits / 8) w)

/-- The operation the decoder reads from the bits `w` of a table row of `nbits` bits. -/
def decodeTableWord (nbits w : Nat) : Option Instr :=
  match tableRequest nbits w with
  | none => none
  | some (v, q) =>
    match decode v q with
    | .ok i => some i
    | .error _ => none

end Sys2Proof
end

