-- ==== Sys2Proof/Machine/Fp.lean ====
section
/-! DEFINITION. Floating-point arithmetic in the format `FP` (R10, D3): IEEE 754 addition and multiplication, round to
nearest, ties to even, subnormals kept, no flags.  A finite value is held exactly, as a natural number of units, the
unit being the smallest positive value of the format. -/

namespace Sys2Proof.Machine

/-- Bits of the significand, the hidden one counted. -/
def fpPrec : FpFormat → Nat
  | .binary32 => 24
  | .binary64 => 53

/-- Bits of a value. -/
def fpWidth : FpFormat → Nat
  | .binary32 => 32
  | .binary64 => 64

/-- The unit is `2 ^ -fpScale`: the smallest positive subnormal. -/
def fpScale : FpFormat → Nat
  | .binary32 => 149
  | .binary64 => 1074

/-- The exponent field of infinities and NaNs, all ones. -/
def fpExpMax : FpFormat → Nat
  | .binary32 => 255
  | .binary64 => 2047

/-- Weight of the sign bit. -/
def fpSignBit (fmt : FpFormat) : Nat := 2 ^ (fpWidth fmt - 1)

/-- Weight of the lowest bit of the exponent field. -/
def fpExpUnit (fmt : FpFormat) : Nat := 2 ^ (fpPrec fmt - 1)

/-- The bits of positive infinity. -/
def fpInfBits (fmt : FpFormat) : Nat := fpExpMax fmt * fpExpUnit fmt

/-- The canonical quiet NaN (D3, U15). -/
def fpNanBits (fmt : FpFormat) : Nat := fpInfBits fmt + fpExpUnit fmt / 2

/-- What a bit pattern stands for. -/
inductive Fp where
  | nan
  | inf (neg : Bool)
  /-- `(-1)^neg * units * 2 ^ -fpScale`. -/
  | fin (neg : Bool) (units : Nat)
  deriving DecidableEq, Repr

/-- A sample is a value of the format: its bits fit the format's width. -/
def sampleFits (fmt : FpFormat) (x : Sample) : Bool := x.toNat < 2 ^ fpWidth fmt

/-- The value of a bit pattern. -/
def fpUnpack (fmt : FpFormat) (x : Sample) : Fp :=
  let neg : Bool := fpSignBit fmt ≤ x.toNat % 2 ^ fpWidth fmt
  let body := x.toNat % fpSignBit fmt
  let e := body / fpExpUnit fmt
  let m := body % fpExpUnit fmt
  if e = fpExpMax fmt then (if m = 0 then .inf neg else .nan)
  else if e = 0 then .fin neg m
  else .fin neg ((fpExpUnit fmt + m) * 2 ^ (e - 1))

/-- The bit pattern with a sign and the bits below it. -/
def fpSigned (fmt : FpFormat) (neg : Bool) (body : Nat) : Sample :=
  BitVec.ofNat 64 (if neg then fpSignBit fmt + body else body)

/-- The canonical NaN as a sample. -/
def fpNan (fmt : FpFormat) : Sample := BitVec.ofNat 64 (fpNanBits fmt)

/-- `n / 2 ^ sh` rounded to the nearest integer, ties to even. -/
def roundShift (n sh : Nat) : Nat :=
  if 2 ^ sh < 2 * (n % 2 ^ sh) ∨ 2 * (n % 2 ^ sh) = 2 ^ sh ∧ n / 2 ^ sh % 2 = 1 then n / 2 ^ sh + 1 else n / 2 ^ sh

/-- How many bits a number has. -/
def bitLength (n : Nat) : Nat := if n = 0 then 0 else n.log2 + 1

/-- By how many bits `n / 2 ^ d` units are cut before rounding: down to the precision, and never below one unit. -/
def fpCut (fmt : FpFormat) (n d : Nat) : Nat := max (bitLength n - fpPrec fmt) d

/-- The bits, without sign, of the value of the format nearest to `n / 2 ^ d` units, ties to even; infinity when that
is beyond the largest finite value. -/
def fpRound (fmt : FpFormat) (n d : Nat) : Nat :=
  min (fpInfBits fmt) ((fpCut fmt n d - d) * fpExpUnit fmt + roundShift n (fpCut fmt n d))

/-- A sign and a magnitude as an integer. -/
def signedUnits (neg : Bool) (n : Nat) : Int := if neg then -(n : Int) else n

/-- The value of the format nearest to the sum of two finite values: a zero sum is +0 unless both terms are negative. -/
def fpAddFinite (fmt : FpFormat) (na : Bool) (a : Nat) (nb : Bool) (b : Nat) : Sample :=
  let v := signedUnits na a + signedUnits nb b
  if v = 0 then fpSigned fmt (na && nb) 0 else fpSigned fmt (v < 0) (fpRound fmt v.natAbs 0)

/-- `fadd` (R10, D3). -/
def fadd (fmt : FpFormat) (x y : Sample) : Sample :=
  match fpUnpack fmt x, fpUnpack fmt y with
  | .nan, _ => fpNan fmt
  | _, .nan => fpNan fmt
  | .inf s, .inf s' => if s = s' then fpSigned fmt s (fpInfBits fmt) else fpNan fmt
  | .inf s, .fin _ _ => fpSigned fmt s (fpInfBits fmt)
  | .fin _ _, .inf s => fpSigned fmt s (fpInfBits fmt)
  | .fin na a, .fin nb b => fpAddFinite fmt na a nb b

/-- `fmul` (R10, D3). -/
def fmul (fmt : FpFormat) (x y : Sample) : Sample :=
  match fpUnpack fmt x, fpUnpack fmt y with
  | .nan, _ => fpNan fmt
  | _, .nan => fpNan fmt
  | .inf s, .inf s' => fpSigned fmt (s != s') (fpInfBits fmt)
  | .inf s, .fin s' b => if b = 0 then fpNan fmt else fpSigned fmt (s != s') (fpInfBits fmt)
  | .fin s a, .inf s' => if a = 0 then fpNan fmt else fpSigned fmt (s != s') (fpInfBits fmt)
  | .fin s a, .fin s' b => fpSigned fmt (s != s') (fpRound fmt (a * b) (fpScale fmt))

/-- `fofint(n)`, the value of the format nearest to a non-negative integer; exact for a small one (R10). -/
def fofint (fmt : FpFormat) (n : Nat) : Sample := fpSigned fmt false (fpRound fmt (n * 2 ^ fpScale fmt) 0)

/-- `fzero`, positive zero (R10). -/
def fzero : Sample := 0

/-- Whether a sample is a finite value. -/
def isFinite (fmt : FpFormat) (x : Sample) : Bool :=
  match fpUnpack fmt x with
  | .fin _ _ => true
  | .inf _ => false
  | .nan => false

/-- The exact value of a finite sample in units; 0 for any other. -/
def unitsOf (fmt : FpFormat) (x : Sample) : Int :=
  match fpUnpack fmt x with
  | .fin neg n => signedUnits neg n
  | .inf _ => 0
  | .nan => 0

end Sys2Proof.Machine
end

