-- ==== Sys2Proof/Machine/Fir.lean ====
section
/-! DEFINITION. The resampler's filter (R261 to R265) over any arithmetic: the unit runs it on samples of the format `FP`,
and the laws of R268 are about the same definitions in exact arithmetic. -/

namespace Sys2Proof.Machine

/-- The arithmetic a filter uses: `fzero`, `fadd`, `fmul`, `fofint` (R10). -/
structure Arith (α : Type) where
  zero : α
  add : α → α → α
  mul : α → α → α
  ofNat : Nat → α

/-- The arithmetic of the format `FP` (R10, D3). -/
def fpArith (fmt : FpFormat) : Arith Sample := ⟨fzero, fadd fmt, fmul fmt, fofint fmt⟩

/-- The state of a resampler: the straps `R` and `T` (R40), `coeff` (R41), `hist` (R42) and `pos` (R43). -/
structure FirState (α : Type) where
  r : Nat
  t : Nat
  coeff : List α
  hist : List α
  pos : Nat
  deriving DecidableEq, Repr

/-- `N = R * T`, the total number of taps (R6, R40). -/
def totalTaps {α : Type} (u : FirState α) : Nat := u.r * u.t

/-- `MemRead(HIST, i)` (R11, R60). -/
def histRead {α : Type} (A : Arith α) (u : FirState α) (i : Nat) : α := u.hist.getD i A.zero

/-- `MemWrite(HIST, i, v)` (R11, R60). -/
def histWrite {α : Type} (u : FirState α) (i : Nat) (v : α) : FirState α := { u with hist := u.hist.set i v }

/-- `MemRead(COEFF, k)`: linear, no wrap (R62). -/
def coeffRead {α : Type} (A : Arith α) (u : FirState α) (k : Nat) : α := u.coeff.getD k A.zero

/-- A newly built resampler: the given coefficients, a history of zeros, position 0 (R260). -/
def firNew {α : Type} (A : Arith α) (r t : Nat) (coeff : List α) : FirState α :=
  ⟨r, t, coeff, List.replicate (r * t) A.zero, 0⟩

/-- The history zeroed and the position 0, the coefficients untouched (R265). -/
def firReset {α : Type} (A : Arith α) (u : FirState α) : FirState α :=
  { u with hist := List.replicate (totalTaps u) A.zero, pos := 0 }

/-- `push(v)`: write at the position, then advance it modulo `N` (R61, R261). -/
def firPush {α : Type} (u : FirState α) (v : α) : FirState α :=
  { histWrite u u.pos v with pos := (u.pos + 1) % totalTaps u }

/-- One term of the inner product: `coeff[k] * hist[(pos + k) mod N]` (R61, R262). -/
def firTerm {α : Type} (A : Arith α) (u : FirState α) (k : Nat) : α :=
  A.mul (coeffRead A u k) (histRead A u ((u.pos + k) % totalTaps u))

/-- `fir()`: the terms added in ascending `k` from zero (R262). -/
def fir {α : Type} (A : Arith α) (u : FirState α) : α :=
  (List.range (totalTaps u)).foldl (fun acc k => A.add acc (firTerm A u k)) A.zero

/-- The loop of RS.DECIMATE with `cnt` samples already pushed in this call (R45, R263): the resampler after it and the
outputs in order. -/
def decimateFrom {α : Type} (A : Arith α) : Nat → FirState α → List α → FirState α × List α
  | _, u, [] => (u, [])
  | cnt, u, x :: xs =>
    let u' := firPush u x
    let rest := decimateFrom A (cnt + 1) u' xs
    (rest.1, if (cnt + 1) % u.r = 0 then fir A u' :: rest.2 else rest.2)

/-- `decimate(input)`: the count starts at 0 in every call (R263). -/
def decimate {α : Type} (A : Arith α) (u : FirState α) (input : List α) : FirState α × List α := decimateFrom A 0 u input

/-- Push each value and append the filter output after each push (R264). -/
def pushEach {α : Type} (A : Arith α) : FirState α → List α → FirState α × List α
  | u, [] => (u, [])
  | u, v :: vs =>
    let u' := firPush u v
    let rest := pushEach A u' vs
    (rest.1, fir A u' :: rest.2)

/-- The `R` values one input sample pushes: the sample times `R`, then `R - 1` zeros (R264). -/
def stuffed {α : Type} (A : Arith α) (r : Nat) (x : α) : List α :=
  match r with
  | 0 => []
  | k + 1 => A.mul x (A.ofNat (k + 1)) :: List.replicate k A.zero

/-- `interpolate(input)` (R264). -/
def interpolate {α : Type} (A : Arith α) : FirState α → List α → FirState α × List α
  | u, [] => (u, [])
  | u, x :: xs =>
    let here := pushEach A u (stuffed A u.r x)
    let rest := interpolate A here.1 xs
    (rest.1, here.2 ++ rest.2)

end Sys2Proof.Machine
end

