-- ==== Sys2Proof/Machine/Coeff.lean ====
section
/-! DEFINITION. The reference value of the parameter `COEFF` (R260, D5): the Hamming-windowed sinc of R260, evaluated in
160-bit fixed point and rounded once to the format `FP`.  Angles are kept as exact fractions of pi, so that the zeros of
the sinc are exact. -/

namespace Sys2Proof.Machine

/-- The fixed-point one, 2^160. -/
def fixOne : Nat := 2 ^ 160

/-- Pi in fixed point, rounded down. -/
def fixPi : Nat := 0x3243f6a8885a308d313198a2e03707344a4093822

/-- The next terms of the sine series after `term = x^(j-1) / (j-1)!`, alternating in sign: `fuel` of them. -/
def sinSeries (x : Nat) : Nat → Nat → Nat → Bool → Int
  | 0, _, _, _ => 0
  | fuel + 1, j, term, neg =>
    signedUnits neg term + sinSeries x fuel (j + 2) (term * x / fixOne * x / fixOne / ((j + 1) * (j + 2))) !neg

/-- The sine of `x` fixed-point radians, for `x` up to pi/2. -/
def fixSin (x : Nat) : Int := sinSeries x 24 1 x false

/-- `sin(pi a / b)` in fixed point: the angle reduced to the first quadrant exactly. -/
def sinPi (a b : Nat) : Int :=
  let a := a % (2 * b)
  let half := a % b
  let folded := min half (b - half)
  let s := fixSin (fixPi * folded / b)
  if a < b then s else -s

/-- `cos(pi a / b) = sin(pi (2a + b) / 2b)` in fixed point. -/
def cosPi (a b : Nat) : Int := sinPi (2 * a + b) (2 * b)

/-- `sinc(p / q) = sin(pi p / q) / (pi p / q)`, 1 at 0, in fixed point (R260). -/
def sincFix (p q : Nat) : Int := if p = 0 then fixOne else sinPi p q * (fixOne * q : Nat) / (fixPi * p : Nat)

/-- `0.54 - 0.46 cos(2 pi n / (N-1))` in fixed point (R260). -/
def hammingFix (taps n : Nat) : Int := (54 * (fixOne : Int) - 46 * cosPi (2 * n) (taps - 1)) / 100

/-- `raw[n]`: with `fc = 0.45 / R` the sinc's argument `2 fc (n - (N-1)/2)` is `9 (2n - (N-1)) / 20R` (R260). -/
def rawCoeff (r taps n : Nat) : Int :=
  sincFix (9 * ((2 * n : Int) - (taps - 1 : Nat)).natAbs) (20 * r) * hammingFix taps n / (fixOne : Int)

/-- `num / den` as a value of the format, rounded once: a fixed-point quotient to the unit and 64 bits below it. -/
def ratioSample (fmt : FpFormat) (num den : Int) : Sample :=
  fpSigned fmt (num * den < 0) (fpRound fmt (num.natAbs * 2 ^ (fpScale fmt + 64) / den.natAbs) 64)

/-- The reference vector: every raw value over the sum of them all (R260). -/
def coeffReference (fmt : FpFormat) (r t : Nat) : List Sample :=
  let raws := (List.range (r * t)).map (rawCoeff r (r * t))
  let total := raws.foldl (· + ·) 0
  raws.map fun x => ratioSample fmt x total

/-- `COEFF` for the ratio `r` and `t` taps per phase: the straps' own vector where they hold one, else the reference
(R7, R260, D5). -/
def coeffFor (p : Straps) (r t : Nat) : List Sample :=
  match p.coeffTable.find? fun e => e.r = r ∧ e.t = t with
  | some e => e.values
  | none => coeffReference p.fp r t

end Sys2Proof.Machine
end

