-- ==== Sys2Proof/Machine/Defaults.lean ====
section
/-! DEFINITION. The default values of the parameters of R6 and R7: the mode tables of R181 to R186, the Yaesu PTT frames
of R243 and R244, the widths of D8, and the straps of the unit that stands after reset. -/

namespace Sys2Proof.Machine

/-- `KW_MODE_CODE` (R181); FMW, DIG and UNKNOWN have no entry. -/
def defaultKwModeCode : ModeCodes (Fin 10) :=
  ⟨2, [(.lsb, 1), (.cw, 3), (.fm, 4), (.am, 5), (.fsk, 6), (.rtty, 6), (.cwR, 7), (.tune, 8), (.fskR, 9), (.dataLsb, 1),
    (.dataUsb, 2)]⟩

/-- `KW_MODE_REV` (R182); 0 has no entry. -/
def defaultKwModeRev : List (Fin 10 × RadioMode) :=
  [(1, .lsb), (2, .usb), (3, .cw), (4, .fm), (5, .am), (6, .fsk), (7, .cwR), (8, .tune), (9, .fskR)]

/-- `CIV_MODE_CODE` (R183); FMW, CW_R, TUNE, DIG and UNKNOWN have no entry. -/
def defaultCivModeCode : ModeCodes Byte :=
  ⟨0x01, [(.lsb, 0x00), (.am, 0x02), (.cw, 0x03), (.rtty, 0x04), (.fsk, 0x04), (.fm, 0x05), (.fskR, 0x08),
    (.dataLsb, 0x00), (.dataUsb, 0x01)]⟩

/-- `CIV_MODE_REV` (R184). -/
def defaultCivModeRev : List (Byte × RadioMode) :=
  [(0x00, .lsb), (0x01, .usb), (0x02, .am), (0x03, .cw), (0x04, .rtty), (0x05, .fm), (0x08, .fskR)]

/-- `YAE_MODE_CODE` (R185); TUNE, FSK_R and UNKNOWN have no entry. -/
def defaultYaeModeCode : ModeCodes Byte :=
  ⟨0x01, [(.lsb, 0x00), (.cw, 0x02), (.cwR, 0x03), (.am, 0x04), (.fmw, 0x06), (.fm, 0x08), (.dig, 0x0A), (.fsk, 0x0A),
    (.rtty, 0x0A), (.dataUsb, 0x0A), (.dataLsb, 0x0A)]⟩

/-- `YAE_MODE_REV` (R186). -/
def defaultYaeModeRev : List (Byte × RadioMode) :=
  [(0x00, .lsb), (0x01, .usb), (0x02, .cw), (0x03, .cwR), (0x04, .am), (0x06, .fmw), (0x08, .fm), (0x0A, .dig)]

/-- The parameters at the defaults of R7 and the straps of the unit that stands after reset: variant Elecraft, no serial
transport, CI-V address 94 (assumption log 7). -/
def defaultStraps : Straps where
  variant := .elecraft
  civRadioAddr := 0x94
  serialPresent := false
  fp := .binary64
  freqW := 64
  idW := 8
  attW := 8
  rxGuard := ⟨.more, .afterTest⟩
  kwModeCode := defaultKwModeCode
  kwModeRev := defaultKwModeRev
  civModeCode := defaultCivModeCode
  civModeRev := defaultCivModeRev
  yaeModeCode := defaultYaeModeCode
  yaeModeRev := defaultYaeModeRev
  yaePttOn := ⟨0x00, 0x00, 0x00, 0x00, 0x08⟩
  yaePttOff := ⟨0x00, 0x00, 0x00, 0x00, 0x88⟩
  coeffTable := []

/-- The ratio of a resampler by default (R6). -/
def defaultRatio : Nat := 6

/-- The taps per phase of a resampler by default (R6). -/
def defaultTaps : Nat := 8

end Sys2Proof.Machine
end

