-- ==== Sys2Proof/Machine/State.lean ====
section
/-! DEFINITION. The state of the machine: one CAT unit and one RSMP unit with their straps (R20), the record of what
they handed out (R34), the value the last operation returned, and the requests still to be taken; the faults, the
refusals, and the state right after reset (R47, R320). -/

namespace Sys2Proof.Machine

/-- The state of a CAT unit (R20, R25 to R32). -/
structure Cat where
  /-- `chan` (R25). -/
  chan : Channel
  /-- Model's own: whether a CAT.SETCH has succeeded since construction (R35, U1). -/
  chanSet : Bool
  /-- `tx`, the transmitting flag (R27). -/
  tx : Bool
  /-- `ready`, the readiness flag (R28). -/
  ready : Bool
  /-- `rxbuf`, the receive parse buffer (R29, R30). -/
  rxbuf : List Byte
  /-- `send_cb`: the registered byte sink, if one is (R31). -/
  sendCb : Option Nat
  /-- `ack_cb`: the registered acknowledge callback, if one is (R32). -/
  ackCb : Option Nat
  deriving DecidableEq, Repr

/-- One output of the CAT unit (R34). -/
inductive Event where
  /-- A frame handed to the byte sink `sink` in one invocation (`TXCB`). -/
  | txcb (sink : Nat) (frame : Frame)
  /-- A frame handed to the serial transport's `write` (`TXSER`). -/
  | txser (frame : Frame)
  /-- One invocation of the acknowledge callback `cb` (`ACKS`). -/
  | ack (cb : Nat)
  deriving DecidableEq, Repr

/-- What an operation returns to the host (R100). -/
inductive Result where
  /-- No result. -/
  | void
  | bool (b : Bool)
  | channel (c : Channel)
  | text (ascii : List Byte)
  | bytes (bs : List Byte)
  | frequency (f : Nat)
  | digit (d : Fin 10)
  | code (b : Byte)
  | mode (m : RadioMode)
  | samples (xs : List Sample)
  deriving DecidableEq, Repr

/-- The state of the machine. -/
structure State where
  /-- The straps and parameters (R33, R7): read by the operations, written by none. -/
  straps : Straps
  /-- The CAT unit. -/
  cat : Cat
  /-- The RSMP unit: `R`, `T`, `coeff`, `hist`, `pos` (R40 to R43). -/
  rsmp : FirState Sample
  /-- `TXCB`, `TXSER` and `ACKS` in the one order in which they happened, oldest first (R34). -/
  events : List Event
  /-- What the last operation returned. -/
  result : Result
  /-- Model's own: the requests the host will present, in its order of invocation (R21). -/
  agenda : List Request
  /-- Model's own: which free value `chan` holds until a CAT.SETCH has succeeded; read by CAT.GETCH, written by none. -/
  freeIndex : Nat
  deriving DecidableEq, Repr

/-- The reasons for a fault: none.  No operation of either unit raises, traps, aborts or faults (R290). -/
inductive Fault where
  deriving DecidableEq, Repr

/-- The reasons for a refusal: the model has no step (R292).  All are safe: nothing can be proved of a program that
meets one. -/
inductive Refusal where
  /-- An operation without a meaning yet; raised by an arm of `exec` only.  Safe. -/
  | notModelled (mnemonic : String)
  /-- The request decodes to no operation: raised by `step`.  Safe (R105 (a), U2). -/
  | undecodable (e : DecodeError)
  /-- The variant has no such operation or frame: raised by EL.SETPWR and EL.SETANT and by the emitted frames.  Safe
  (R105 (a), U7, D28). -/
  | notThisVariant
  /-- The frame carries another radio address than the unit's strap: raised by the CI-V frames.  Safe (R102, R220). -/
  | notThisAddress
  /-- An antenna number outside 1 and 2: raised by EL.SETANT and EL.AN.  Safe (R209, U8). -/
  | antennaOutsideGrammar
  /-- Bytes that are not decimal digits, or not as many as the field has: raised by the frequency decoders.  Safe (D23,
  U4). -/
  | notDecimal
  /-- `R < 1`, `T < 1` or `R * T < 2`: raised by RS.CONSTRUCT.  Safe (R40, U10). -/
  | badGeometry
  /-- An operand, or a decoded frequency, that does not fit its parametric width: raised by CAT.SETCH, the frequency
  functions, RS.DECIMATE and RS.INTERP.  Safe (R24, R161, D8). -/
  | tooWide
  deriving DecidableEq, Repr

/-- A CAT unit right after construction (R35, D13); `chan` is the model's choice (assumption log 5). -/
def Cat.constructed : Cat where
  chan := ⟨0, 0, 0, .lsb, .lsb, 0, 0, 0, false⟩
  chanSet := false
  tx := false
  ready := false
  rxbuf := []
  sendCb := none
  ackCb := none

/-- The machine right after construction of its two units with the straps `p`, the resampler built with the default
ratio and taps (R47, R320). -/
def State.constructed (p : Straps) : State where
  straps := p
  cat := Cat.constructed
  rsmp := firNew (fpArith p.fp) defaultRatio defaultTaps (coeffFor p defaultRatio defaultTaps)
  events := []
  result := .void
  agenda := []
  freeIndex := 0

/-- The machine right after reset: construction with the default straps (R47). -/
def State.reset : State := State.constructed defaultStraps

end Sys2Proof.Machine
end

