-- ==== Sys2Proof/Machine/Flags.lean ====
section
/-! DEFINITION. The status flags and presence bits (R37): `ready`, `tx`, `send_cb`, `ack_cb`; who tests and who writes
them.  There are no arithmetic condition codes (R37). -/

namespace Sys2Proof.Machine

/-- Write the readiness flag (R28). -/
def State.setReady (s : State) (b : Bool) : State := { s with cat := { s.cat with ready := b } }

/-- Write the transmitting flag (R27). -/
def State.setTx (s : State) (b : Bool) : State := { s with cat := { s.cat with tx := b } }

/-- Register a byte sink, replacing any other (R31, R142). -/
def State.setSendCb (s : State) (sink : Nat) : State := { s with cat := { s.cat with sendCb := some sink } }

/-- Register an acknowledge callback, replacing any other (R32, R143). -/
def State.setAckCb (s : State) (cb : Nat) : State := { s with cat := { s.cat with ackCb := some cb } }

/-- `dest_exists`: a byte sink is registered or a serial transport is bound (R130). -/
def destExists (s : State) : Bool := s.cat.sendCb.isSome || s.straps.serialPresent

/-- The guard of CAT.SETCH: ready, and a send destination exists (R136). -/
def maySetChannel (s : State) : Bool := s.cat.ready && destExists s

/-- The comparison of the overflow guard with the cap, `RX_GUARD` (R145, D17). -/
def overCap (p : Straps) (len : Nat) : Bool :=
  match p.rxGuard.compare with
  | .more => rxbufCap < len
  | .atLeast => rxbufCap ≤ len

end Sys2Proof.Machine
end

