-- ==== Sys2Proof/Machine/Ops.lean ====
section
/-! DEFINITION. The named operations the meanings share: emission (R130), the acknowledge event (R131), the receive
buffer and its guard (R145, R207, R226), the variant's frames and port parameters, and the taking of a request.  There is
no exception to take and none to return from: the hardware has no trap entry and no trap return (R290, R296, R297). -/

namespace Sys2Proof.Machine

/-- Store what an operation returns. -/
def State.setResult (s : State) (r : Result) : State := { s with result := r }

/-- Append one output to the record (R34). -/
def State.logEvent (s : State) (e : Event) : State := { s with events := s.events ++ [e] }

/-- Replace the RSMP unit's state. -/
def State.setRsmp (s : State) (u : FirState Sample) : State := { s with rsmp := u }

/-- Store a Channel that a CAT.SETCH accepted (R25, R136). -/
def State.setChan (s : State) (c : Channel) : State := { s with cat := { s.cat with chan := c, chanSet := true } }

/-- Replace the contents of the receive buffer. -/
def State.setRxbuf (s : State) (bs : List Byte) : State := { s with cat := { s.cat with rxbuf := bs } }

/-- End an operation with its result: the next state. -/
def finish (s : State) (r : Result) : Host.Outcome State Fault Refusal := .next (s.setResult r)

/-- `emit(frame)`: to the byte sink if one is registered, else to the serial transport if one is bound, else dropped
(R130). -/
def emit (s : State) (frame : Frame) : State :=
  match s.cat.sendCb with
  | some sink => s.logEvent (.txcb sink frame)
  | none => if s.straps.serialPresent then s.logEvent (.txser frame) else s

/-- Emission by an operation that emits nothing when not ready (R138, R208, R209, R290). -/
def emitIfReady (s : State) (frame : Frame) : State := if s.cat.ready then emit s frame else s

/-- `ack()`: one invocation of the acknowledge callback if one is registered (R131). -/
def ack (s : State) : State :=
  match s.cat.ackCb with
  | some cb => s.logEvent (.ack cb)
  | none => s

/-- Append one byte to the receive buffer (R63). -/
def rxAppend (s : State) (b : Byte) : State := s.setRxbuf (s.cat.rxbuf ++ [b])

/-- Clear the receive buffer (R63). -/
def rxClear (s : State) : State := s.setRxbuf []

/-- `rx_guard()`: a silent clear of a buffer over the cap (R145). -/
def rxGuard (s : State) : State := if overCap s.straps s.cat.rxbuf.length then rxClear s else s

/-- The guard where `RX_GUARD` places it, and nothing elsewhere (R7, D17). -/
def guardAt (s : State) (place : GuardPlace) : State := if s.straps.rxGuard.place = place then rxGuard s else s

/-- The byte appended, and the guard if it stands before the terminator test (R145, R207, R226). -/
def rxTake (s : State) (b : Byte) : State := guardAt (rxAppend s b) .beforeTest

/-- `kw_rx_byte(b)`: every ';' acknowledges and clears (R207). -/
def kwRxByte (s : State) (b : Byte) : State :=
  if b = kwTerm then rxClear (ack (rxTake s b)) else guardAt (rxTake s b) .afterTest

/-- Whether a buffer that ends in the end marker acknowledges: at least 6 bytes, the double preamble, FB at offset 4
(R226, R227).  A NAK and any other code do nothing (R228, R229). -/
def civAcknowledges (buf : List Byte) : Bool :=
  6 ≤ buf.length && buf[0]? = some 0xFE && buf[1]? = some 0xFE && buf[4]? = some 0xFB

/-- `civ_rx_byte(b)`: at the end marker the buffer is inspected and cleared, valid or not (R226). -/
def civRxByte (s : State) (b : Byte) : State :=
  if b = civEom then
    (if civAcknowledges (rxTake s b).cat.rxbuf then rxClear (ack (rxTake s b)) else rxClear (rxTake s b))
  else guardAt (rxTake s b) .afterTest

/-- Received bytes, by variant: byte by byte into the parser, with the guard at the end if it stands there, or for
YaesuCat one acknowledge for any non-empty receipt (R144, R145, R246). -/
def receive (s : State) (bytes : List Byte) : State :=
  match s.straps.variant with
  | .kenwood => guardAt (bytes.foldl kwRxByte s) .callEnd
  | .elecraft => guardAt (bytes.foldl kwRxByte s) .callEnd
  | .icomCiv => guardAt (bytes.foldl civRxByte s) .callEnd
  | .yaesuCat => if bytes = [] then s else ack s

/-- The variant's frequency frame (R201, R221, R241). -/
def freqFrame (p : Straps) (f : Nat) : Frame :=
  match p.variant with
  | .kenwood => kwFaFrame f
  | .elecraft => kwFaFrame f
  | .icomCiv => civFreqFrame p.civRadioAddr f
  | .yaesuCat => yaeFreqFrame (f / 10)

/-- The variant's mode frame (R202, R222, R242). -/
def modeFrame (p : Straps) (m : RadioMode) : Frame :=
  match p.variant with
  | .kenwood => kwMdFrame (encodeMode p.kwModeCode m)
  | .elecraft => kwMdFrame (encodeMode p.kwModeCode m)
  | .icomCiv => civModeFrame p.civRadioAddr (encodeMode p.civModeCode m)
  | .yaesuCat => yaeModeFrame (encodeMode p.yaeModeCode m)

/-- The variant's transmit or receive frame (R203, R204, R223, R243, R244). -/
def pttFrame (p : Straps) (b : Bool) : Frame :=
  match p.variant with
  | .kenwood => if b then kwTxFrame else kwRxFrame
  | .elecraft => if b then kwTxFrame else kwRxFrame
  | .icomCiv => civPttFrame p.civRadioAddr b
  | .yaesuCat => yae5Frame (if b then p.yaePttOn else p.yaePttOff)

/-- Parity of a serial port (R95). -/
inductive Parity where
  | n
  | o
  | e
  deriving DecidableEq, Repr

/-- The serial parameters of a protocol (R95). -/
structure PortConfig where
  baud : Nat
  parity : Parity
  dataBits : Nat
  stopBits : Nat
  deriving DecidableEq, Repr

/-- The variant's serial parameters (R139, R211, R230, R249). -/
def portConfig : Variant → PortConfig
  | .kenwood => ⟨9600, .n, 8, 1⟩
  | .elecraft => ⟨38400, .n, 8, 1⟩
  | .icomCiv => ⟨9600, .n, 8, 1⟩
  | .yaesuCat => ⟨9600, .n, 8, 2⟩

/-- How many decimal digits a number below 10^10 has. -/
def decimalWidth (n : Nat) : Nat := ((List.range 10).find? fun k => n < 10 ^ (k + 1)).getD 9 + 1

/-- A number in unpadded decimal (R95). -/
def unpadded (n : Nat) : List Byte := asc n (decimalWidth n)

/-- The parity letter (R95). -/
def parityLetter : Parity → Byte
  | .n => 0x6E
  | .o => 0x6F
  | .e => 0x65

/-- The format `PCFG`: four fields separated by commas, no spaces (R95). -/
def portConfigText (c : PortConfig) : List Byte :=
  unpadded c.baud ++ [0x2C] ++ [parityLetter c.parity] ++ [0x2C] ++ unpadded c.dataBits ++ [0x2C] ++ unpadded c.stopBits

/-- The emission of one frame as an operation of its own: only on the variants that have it, and silent when not ready
(R101 to R103, R105 (a), R290). -/
def emitRow (s : State) (variants : List Variant) (frame : Frame) : Host.Outcome State Fault Refusal :=
  if s.straps.variant ∈ variants then finish (emitIfReady s frame) .void else .refused .notThisVariant

/-- The emission of one CI-V frame: its radio address is the unit's strap (R102, R220). -/
def emitCivRow (s : State) (rr : Byte) (frame : Frame) : Host.Outcome State Fault Refusal :=
  if s.straps.variant = .icomCiv ∧ rr ≠ s.straps.civRadioAddr then .refused .notThisAddress
  else emitRow s [.icomCiv] frame

/-- The result of a frequency encoder: any frequency of the unit is encoded (R166). -/
def encodeFrequency (s : State) (f : Nat) (bytes : List Byte) : Host.Outcome State Fault Refusal :=
  if freqFits s.straps f then finish s (.bytes bytes) else .refused .tooWide

/-- The result of a frequency decoder (R161, R163, R165). -/
def decodeFrequency (s : State) (f : Option Nat) : Host.Outcome State Fault Refusal :=
  match f with
  | none => .refused .notDecimal
  | some f => if freqFits s.straps f then finish s (.frequency f) else .refused .tooWide

/-- A resampler operation on samples of the format: the new resampler and the output sequence (R263, R264). -/
def resample (s : State) (input : List Sample) (run : FirState Sample × List Sample) : Host.Outcome State Fault Refusal :=
  if input.all (sampleFits s.straps.fp) then finish (s.setRsmp run.1) (.samples run.2) else .refused .tooWide

/-- `TXCB` (R34): the frames handed to a byte sink, in order. -/
def txcb (s : State) : List Frame :=
  s.events.filterMap fun e =>
    match e with
    | .txcb _ frame => some frame
    | .txser _ => none
    | .ack _ => none

/-- `TXSER` (R34): the frames handed to the serial transport, in order. -/
def txser (s : State) : List Frame :=
  s.events.filterMap fun e =>
    match e with
    | .txser frame => some frame
    | .txcb _ _ => none
    | .ack _ => none

/-- `ACKS` (R34): the number of acknowledge events. -/
def acks (s : State) : Nat :=
  s.events.countP fun e =>
    match e with
    | .ack _ => true
    | .txcb _ _ => false
    | .txser _ => false

/-- What the host asks next: nothing, a request that decodes to no operation, or an operation; and the state with the
request taken off the agenda (R21). -/
inductive Fetched where
  | idle
  | bad (e : DecodeError)
  | op (i : Instr) (s : State)
  deriving DecidableEq, Repr

/-- Take the next request. -/
def fetch (s : State) : Fetched :=
  match s.agenda with
  | [] => .idle
  | q :: rest =>
    match decode s.straps.variant q with
    | .error e => .bad e
    | .ok i => .op i { s with agenda := rest }

/-- The straps changed where an operation's row asks for it: to a variant that has the row, and for a CI-V frame to its
radio address. -/
def strapsFor (p : Straps) (i : Instr) : Straps :=
  let p := if p.variant ∈ i.variants then p else { p with variant := i.variants.headD p.variant }
  match i with
  | .civFreq rr _ => { p with civRadioAddr := rr }
  | .civMode rr _ => { p with civRadioAddr := rr }
  | .civPtt rr _ => { p with civRadioAddr := rr }
  | _ => p

/-- The state in which the table row with the bits `w` is the next request (see `State.withFetchWord`). -/
def presentRow (s : State) (nbits w : Nat) : State :=
  match tableRequest nbits w, decodeTableWord nbits w with
  | some (_, q), some i => { s with agenda := q :: s.agenda, straps := strapsFor s.straps i }
  | some (_, q), none => { s with agenda := q :: s.agenda }
  | none, _ => { s with agenda := ⟨.tx, tableBytes (nbits / 8) w⟩ :: s.agenda }

end Sys2Proof.Machine
end

