-- ==== Sys2Proof/Machine/Contract.lean ====
section
/-! DEFINITION. The meanings of the CAT contract, common to all four variants (R132 to R144). -/

namespace Sys2Proof.Machine

/-- CAT.INIT (R132). -/
def execCatInit (s : State) : Host.Outcome State Fault Refusal := finish ((rxClear s).setReady true) (.bool true)

/-- CAT.SHUTDOWN (R133). -/
def execCatShutdown (s : State) : Host.Outcome State Fault Refusal := finish (s.setReady false) .void

/-- CAT.START (R134). -/
def execCatStart (s : State) : Host.Outcome State Fault Refusal := finish s (.bool s.cat.ready)

/-- CAT.STOP (R135): no effect; the result 1 is D14. -/
def execCatStop (s : State) : Host.Outcome State Fault Refusal := finish s (.bool true)

/-- CAT.SETCH (R136): the frequency frame, then the mode frame, then the Channel is stored. -/
def execCatSetch (c : Channel) (s : State) : Host.Outcome State Fault Refusal :=
  if channelFits s.straps c then
    (if maySetChannel s then
      finish ((emit (emit s (freqFrame s.straps c.rxFrequency)) (modeFrame s.straps c.rxMode)).setChan c) (.bool true)
    else finish s (.bool false))
  else .refused .tooWide

/-- CAT.GETCH (R137); before any successful CAT.SETCH the result is a free value, the same in every such read (R35, R73,
U1). -/
def execCatGetch (s : State) : Host.Outcome State Fault Refusal :=
  if s.cat.chanSet then finish s (.channel s.cat.chan)
  else finish s (.channel (Config.unspecifiedChannel s.freeIndex))

/-- CAT.SETPTT (R138): the flag is written also when not ready (D15, C2). -/
def execCatSetptt (b : Bool) (s : State) : Host.Outcome State Fault Refusal :=
  finish ((emitIfReady s (pttFrame s.straps b)).setTx b) .void

/-- CAT.ISTX (R140). -/
def execCatIstx (s : State) : Host.Outcome State Fault Refusal := finish s (.bool s.cat.tx)

/-- CAT.ISRDY (R141). -/
def execCatIsrdy (s : State) : Host.Outcome State Fault Refusal := finish s (.bool s.cat.ready)

/-- CAT.PORTCFG (R139). -/
def execCatPortcfg (s : State) : Host.Outcome State Fault Refusal :=
  finish s (.text (portConfigText (portConfig s.straps.variant)))

/-- CAT.REGSEND (R142). -/
def execCatRegsend (sink : Nat) (s : State) : Host.Outcome State Fault Refusal := finish (s.setSendCb sink) .void

/-- CAT.REGACK (R143). -/
def execCatRegack (cb : Nat) (s : State) : Host.Outcome State Fault Refusal := finish (s.setAckCb cb) .void

/-- CAT.RESP (R144): not gated by `ready` (D18). -/
def execCatResp (bytes : List Byte) (s : State) : Host.Outcome State Fault Refusal := finish (receive s bytes) .void

end Sys2Proof.Machine
end

