-- ==== Sys2Proof/Machine/Elecraft.lean ====
section
/-! DEFINITION. The meanings of the two Elecraft operations (R208, R209). -/

namespace Sys2Proof.Machine

/-- EL.SETPWR (R208): the low three decimal digits are sent (D21). -/
def execElSetpwr (watts : Nat) (s : State) : Host.Outcome State Fault Refusal :=
  if s.straps.variant = .elecraft then finish (emitIfReady s (elPcFrame watts)) .void else .refused .notThisVariant

/-- EL.SETANT (R209): the operand is 1 or 2. -/
def execElSetant (antenna : Byte) (s : State) : Host.Outcome State Fault Refusal :=
  if s.straps.variant = .elecraft then
    (if antenna = 1 ∨ antenna = 2 then finish (emitIfReady s (elAnFrame antenna.toNat)) .void
    else .refused .antennaOutsideGrammar)
  else .refused .notThisVariant

end Sys2Proof.Machine
end

