-- ==== Sys2Proof/Machine/Emitted.lean ====
section
/-! DEFINITION. The meanings of the emitted frames (R101 to R103), each the emission of that frame as an operation of its
own: the operations CAT.SETCH, CAT.SETPTT, EL.SETPWR and EL.SETANT expand into (R108).  No frame writes a flag. -/

namespace Sys2Proof.Machine

/-- KW.FA (R201). -/
def execKwFa (f : Nat) (s : State) : Host.Outcome State Fault Refusal := emitRow s [.kenwood, .elecraft] (kwFaFrame f)

/-- KW.MD (R202). -/
def execKwMd (code : Fin 10) (s : State) : Host.Outcome State Fault Refusal :=
  emitRow s [.kenwood, .elecraft] (kwMdFrame code)

/-- KW.TX (R203). -/
def execKwTx (s : State) : Host.Outcome State Fault Refusal := emitRow s [.kenwood, .elecraft] kwTxFrame

/-- KW.RX (R204). -/
def execKwRx (s : State) : Host.Outcome State Fault Refusal := emitRow s [.kenwood, .elecraft] kwRxFrame

/-- EL.PC (R208). -/
def execElPc (watts : Nat) (s : State) : Host.Outcome State Fault Refusal := emitRow s [.elecraft] (elPcFrame watts)

/-- EL.AN (R209): the digit is 1 or 2. -/
def execElAn (antenna : Fin 10) (s : State) : Host.Outcome State Fault Refusal :=
  if s.straps.variant = .elecraft ∧ antenna ≠ 1 ∧ antenna ≠ 2 then .refused .antennaOutsideGrammar
  else emitRow s [.elecraft] (elAnFrame antenna.val)

/-- CIV.FREQ (R221). -/
def execCivFreq (rr : Byte) (f : Nat) (s : State) : Host.Outcome State Fault Refusal :=
  emitCivRow s rr (civFreqFrame rr f)

/-- CIV.MODE (R222). -/
def execCivMode (rr mm : Byte) (s : State) : Host.Outcome State Fault Refusal := emitCivRow s rr (civModeFrame rr mm)

/-- CIV.PTT (R223). -/
def execCivPtt (rr : Byte) (p : Bool) (s : State) : Host.Outcome State Fault Refusal :=
  emitCivRow s rr (civPttFrame rr p)

/-- YAE.FREQ (R241). -/
def execYaeFreq (q : Nat) (s : State) : Host.Outcome State Fault Refusal := emitRow s [.yaesuCat] (yaeFreqFrame q)

/-- YAE.MODE (R242). -/
def execYaeMode (mm : Byte) (s : State) : Host.Outcome State Fault Refusal := emitRow s [.yaesuCat] (yaeModeFrame mm)

/-- YAE.PTT_ON (R243): the five bytes are the parameter `YAE_PTT_ON_FRAME`. -/
def execYaePttOn (s : State) : Host.Outcome State Fault Refusal :=
  emitRow s [.yaesuCat] (yae5Frame s.straps.yaePttOn)

/-- YAE.PTT_OFF (R244): the five bytes are the parameter `YAE_PTT_OFF_FRAME`. -/
def execYaePttOff (s : State) : Host.Outcome State Fault Refusal :=
  emitRow s [.yaesuCat] (yae5Frame s.straps.yaePttOff)

end Sys2Proof.Machine
end

