-- ==== Sys2Proof/Machine/Frequency.lean ====
section
/-! DEFINITION. The meanings of the six frequency functions (R160 to R165): they read and write no state but the
result. -/

namespace Sys2Proof.Machine

/-- FQ.ENC.CIV (R160). -/
def execFqEncCiv (f : Nat) (s : State) : Host.Outcome State Fault Refusal := encodeFrequency s f (encCiv f)

/-- FQ.DEC.CIV (R161). -/
def execFqDecCiv (bytes : List Byte) (s : State) : Host.Outcome State Fault Refusal := decodeFrequency s (decCiv bytes)

/-- FQ.ENC.YAE (R162). -/
def execFqEncYae (f : Nat) (s : State) : Host.Outcome State Fault Refusal := encodeFrequency s f (encYae f)

/-- FQ.DEC.YAE (R163). -/
def execFqDecYae (bytes : List Byte) (s : State) : Host.Outcome State Fault Refusal := decodeFrequency s (decYae bytes)

/-- FQ.ENC.KW (R164). -/
def execFqEncKw (f : Nat) (s : State) : Host.Outcome State Fault Refusal := encodeFrequency s f (encKw f)

/-- FQ.DEC.KW (R165). -/
def execFqDecKw (bytes : List Byte) (s : State) : Host.Outcome State Fault Refusal := decodeFrequency s (decKw bytes)

end Sys2Proof.Machine
end

