-- ==== Sys2Proof/Machine/Modes.lean ====
section
/-! DEFINITION. The meanings of the six mode maps (R181 to R186): total functions of the straps' tables. -/

namespace Sys2Proof.Machine

/-- MD.ENC.KW (R181). -/
def execMdEncKw (m : RadioMode) (s : State) : Host.Outcome State Fault Refusal :=
  finish s (.digit (encodeMode s.straps.kwModeCode m))

/-- MD.DEC.KW (R182). -/
def execMdDecKw (d : Fin 10) (s : State) : Host.Outcome State Fault Refusal :=
  finish s (.mode (decodeMode s.straps.kwModeRev d))

/-- MD.ENC.CIV (R183). -/
def execMdEncCiv (m : RadioMode) (s : State) : Host.Outcome State Fault Refusal :=
  finish s (.code (encodeMode s.straps.civModeCode m))

/-- MD.DEC.CIV (R184). -/
def execMdDecCiv (code : Byte) (s : State) : Host.Outcome State Fault Refusal :=
  finish s (.mode (decodeMode s.straps.civModeRev code))

/-- MD.ENC.YAE (R185). -/
def execMdEncYae (m : RadioMode) (s : State) : Host.Outcome State Fault Refusal :=
  finish s (.code (encodeMode s.straps.yaeModeCode m))

/-- MD.DEC.YAE (R186). -/
def execMdDecYae (code : Byte) (s : State) : Host.Outcome State Fault Refusal :=
  finish s (.mode (decodeMode s.straps.yaeModeRev code))

end Sys2Proof.Machine
end

