-- ==== Sys2Proof/Machine/Received.lean ====
section
/-! DEFINITION. The meanings of the received patterns (R104): the arrival of those bytes in one CAT.RESP.  What they do is
what the unit's parser does with them, whatever its variant and whatever its buffer holds: on receive there is no illegal
encoding (R105 (c)). -/

namespace Sys2Proof.Machine

/-- KW.RSP (R207). -/
def execKwRsp (before : List Byte) (s : State) : Host.Outcome State Fault Refusal :=
  finish (receive s (before ++ [kwTerm])) .void

/-- CIV.ACK (R227). -/
def execCivAck (x y : Byte) (rest : List Byte) (s : State) : Host.Outcome State Fault Refusal :=
  finish (receive s ([0xFE, 0xFE, x, y, 0xFB] ++ rest ++ [civEom])) .void

/-- CIV.NAK (R228). -/
def execCivNak (x y : Byte) (rest : List Byte) (s : State) : Host.Outcome State Fault Refusal :=
  finish (receive s ([0xFE, 0xFE, x, y, 0xFA] ++ rest ++ [civEom])) .void

/-- CIV.OTHER (R229). -/
def execCivOther (before : List Byte) (s : State) : Host.Outcome State Fault Refusal :=
  finish (receive s (before ++ [civEom])) .void

/-- YAE.RSP (R246). -/
def execYaeRsp (bytes : List Byte) (s : State) : Host.Outcome State Fault Refusal := finish (receive s bytes) .void

end Sys2Proof.Machine
end

