-- ==== Sys2Proof/Machine/Resampler.lean ====
section
/-! DEFINITION. The meanings of the RSMP operations (R260 to R265). -/

namespace Sys2Proof.Machine

/-- RS.CONSTRUCT (R260): a new resampler in the place of the old one; refused outside the bounds of R40. -/
def execRsConstruct (r t : Nat) (s : State) : Host.Outcome State Fault Refusal :=
  if 1 ≤ r ∧ 1 ≤ t ∧ 2 ≤ r * t then
    finish (s.setRsmp (firNew (fpArith s.straps.fp) r t (coeffFor s.straps r t))) .void
  else .refused .badGeometry

/-- RS.DECIMATE (R263). -/
def execRsDecimate (input : List Sample) (s : State) : Host.Outcome State Fault Refusal :=
  resample s input (decimate (fpArith s.straps.fp) s.rsmp input)

/-- RS.INTERP (R264). -/
def execRsInterp (input : List Sample) (s : State) : Host.Outcome State Fault Refusal :=
  resample s input (interpolate (fpArith s.straps.fp) s.rsmp input)

/-- RS.RESET (R265). -/
def execRsReset (s : State) : Host.Outcome State Fault Refusal :=
  finish (s.setRsmp (firReset (fpArith s.straps.fp) s.rsmp)) .void

end Sys2Proof.Machine
end

