-- ==== Sys2Proof/Machine/Dispatch.lean ====
section
/-! DEFINITION. The dispatch: one arm per constructor of Instr, each one call of its meaning. -/

namespace Sys2Proof.Machine

def exec (i : Instr) (s : State) : Host.Outcome State Fault Refusal :=
  match i with
  | .catInit => Sys2Proof.Machine.execCatInit s
  | .catShutdown => Sys2Proof.Machine.execCatShutdown s
  | .catStart => Sys2Proof.Machine.execCatStart s
  | .catStop => Sys2Proof.Machine.execCatStop s
  | .catSetch c => Sys2Proof.Machine.execCatSetch c s
  | .catGetch => Sys2Proof.Machine.execCatGetch s
  | .catSetptt b => Sys2Proof.Machine.execCatSetptt b s
  | .catIstx => Sys2Proof.Machine.execCatIstx s
  | .catIsrdy => Sys2Proof.Machine.execCatIsrdy s
  | .catPortcfg => Sys2Proof.Machine.execCatPortcfg s
  | .catRegsend sink => Sys2Proof.Machine.execCatRegsend sink s
  | .catRegack cb => Sys2Proof.Machine.execCatRegack cb s
  | .catResp bytes => Sys2Proof.Machine.execCatResp bytes s
  | .elSetpwr watts => Sys2Proof.Machine.execElSetpwr watts s
  | .elSetant antenna => Sys2Proof.Machine.execElSetant antenna s
  | .rsConstruct r t => Sys2Proof.Machine.execRsConstruct r t s
  | .rsDecimate input => Sys2Proof.Machine.execRsDecimate input s
  | .rsInterp input => Sys2Proof.Machine.execRsInterp input s
  | .rsReset => Sys2Proof.Machine.execRsReset s
  | .fqEncCiv f => Sys2Proof.Machine.execFqEncCiv f s
  | .fqDecCiv bytes => Sys2Proof.Machine.execFqDecCiv bytes s
  | .fqEncYae f => Sys2Proof.Machine.execFqEncYae f s
  | .fqDecYae bytes => Sys2Proof.Machine.execFqDecYae bytes s
  | .fqEncKw f => Sys2Proof.Machine.execFqEncKw f s
  | .fqDecKw bytes => Sys2Proof.Machine.execFqDecKw bytes s
  | .mdEncKw m => Sys2Proof.Machine.execMdEncKw m s
  | .mdDecKw d => Sys2Proof.Machine.execMdDecKw d s
  | .mdEncCiv m => Sys2Proof.Machine.execMdEncCiv m s
  | .mdDecCiv code => Sys2Proof.Machine.execMdDecCiv code s
  | .mdEncYae m => Sys2Proof.Machine.execMdEncYae m s
  | .mdDecYae code => Sys2Proof.Machine.execMdDecYae code s
  | .kwFa f => Sys2Proof.Machine.execKwFa f s
  | .kwMd code => Sys2Proof.Machine.execKwMd code s
  | .kwTx => Sys2Proof.Machine.execKwTx s
  | .kwRx => Sys2Proof.Machine.execKwRx s
  | .elPc watts => Sys2Proof.Machine.execElPc watts s
  | .elAn antenna => Sys2Proof.Machine.execElAn antenna s
  | .civFreq rr f => Sys2Proof.Machine.execCivFreq rr f s
  | .civMode rr mm => Sys2Proof.Machine.execCivMode rr mm s
  | .civPtt rr p => Sys2Proof.Machine.execCivPtt rr p s
  | .yaeFreq q => Sys2Proof.Machine.execYaeFreq q s
  | .yaeMode mm => Sys2Proof.Machine.execYaeMode mm s
  | .yaePttOn => Sys2Proof.Machine.execYaePttOn s
  | .yaePttOff => Sys2Proof.Machine.execYaePttOff s
  | .kwRsp before => Sys2Proof.Machine.execKwRsp before s
  | .civAck x y rest => Sys2Proof.Machine.execCivAck x y rest s
  | .civNak x y rest => Sys2Proof.Machine.execCivNak x y rest s
  | .civOther before => Sys2Proof.Machine.execCivOther before s
  | .yaeRsp bytes => Sys2Proof.Machine.execYaeRsp bytes s

end Sys2Proof.Machine
end

