-- ==== Sys2Proof/Machine/Step.lean ====
section
/-! DEFINITION. One step: the next request of the agenda is decoded and runs to completion (R12, R21). -/

namespace Sys2Proof.Machine

/-- One step.  With nothing on the agenda the hardware does nothing: it fetches nothing by itself (R21). -/
def step (s : State) : Host.Outcome State Fault Refusal :=
  match fetch s with
  | .idle => .next s
  | .bad e => .refused (.undecodable e)
  | .op i s' => exec i s'

/-- The state in which the next step runs the table row with the bits `w`: its request at the head of the agenda, and the
straps on a variant (and a CI-V address) that has the row. -/
def State.withFetchWord (s : State) (nbits w : Nat) : State := presentRow s nbits w

end Sys2Proof.Machine
end

