-- ==== Sys2Proof/Safety.lean ====
section
/-! DEFINITION. What counts as a legal state: the constraints the spec states of the parameters (R181 to R186, R243, R260),
the form of the storage spaces (R40 to R43, R60), and the invariant the claims speak of. -/

namespace Sys2Proof.Machine

/-- The fifteen RadioModes (R23). -/
def allModes : List RadioMode :=
  [.lsb, .usb, .cw, .fm, .fmw, .am, .fsk, .rtty, .cwR, .tune, .fskR, .dig, .dataLsb, .dataUsb, .unknown]

/-- The round trip of a mode through a pair of tables, `native_to_radio(radio_to_native(m))` (R180). -/
def roundTrip {α : Type} [DecidableEq α] (enc : ModeCodes α) (rev : List (α × RadioMode)) (m : RadioMode) : RadioMode :=
  decodeMode rev (encodeMode enc m)

/-- A mode comes back as itself, as the mode a documented collapse names, or, unmapped, as USB (R180). -/
def returnsLawfully {α : Type} [DecidableEq α] (enc : ModeCodes α) (rev : List (α × RadioMode))
    (collapses : List (RadioMode × RadioMode)) (m : RadioMode) : Bool :=
  roundTrip enc rev m = m || collapses.contains (m, roundTrip enc rev m) ||
    (!isMapped enc m && roundTrip enc rev m = .usb)

/-- The constraints K1 to K7 on the Kenwood tables, and R180 (R181, R182); no code comes back as RTTY, DATA_USB or DATA_LSB
(K3 and K5: one way). -/
def kwTablesLegal (p : Straps) : Bool :=
  let enc := encodeMode p.kwModeCode
  enc .usb = 2 && enc .rtty = enc .fsk && enc .dataUsb = enc .usb && enc .dataLsb = enc .lsb &&
    roundTrip p.kwModeCode p.kwModeRev .fsk = .fsk && roundTrip p.kwModeCode p.kwModeRev .usb = .usb &&
    roundTrip p.kwModeCode p.kwModeRev .lsb = .lsb &&
    p.kwModeRev.all (fun e => e.2 ≠ .rtty && e.2 ≠ .dataUsb && e.2 ≠ .dataLsb) &&
    allModes.all (returnsLawfully p.kwModeCode p.kwModeRev [(.rtty, .fsk), (.dataUsb, .usb), (.dataLsb, .lsb)])

/-- The constraints I1 to I10 on the Icom tables, and R180 (R183, R184).  The modes other than the ten named are the
unmapped ones. -/
def civTablesLegal (p : Straps) : Bool :=
  let enc := encodeMode p.civModeCode
  let codes := [enc .lsb, enc .usb, enc .am, enc .cw, enc .fm, enc .rtty, enc .fskR]
  enc .usb = 0x01 && ([enc .lsb, enc .usb, enc .am, enc .cw, enc .fm] : List Byte).Nodup && enc .rtty = enc .fsk &&
    enc .dataLsb = enc .lsb && enc .dataUsb = enc .usb &&
    ([.fmw, .cwR, .tune, .dig, .unknown] : List RadioMode).all (fun m => !isMapped p.civModeCode m) &&
    ([.lsb, .usb, .am, .cw, .fm, .rtty, .fskR] : List RadioMode).all
      (fun m => roundTrip p.civModeCode p.civModeRev m = m) &&
    p.civModeRev.all (fun e => codes.contains e.1 || e.2 = .usb) &&
    allModes.all (returnsLawfully p.civModeCode p.civModeRev [(.fsk, .rtty), (.dataLsb, .lsb), (.dataUsb, .usb)])

/-- The constraints Y1 and Y2 on the Yaesu tables, and R180: the modes on the digital code come back as the one mode
that code decodes to (R185, R186). -/
def yaeTablesLegal (p : Straps) : Bool :=
  let enc := encodeMode p.yaeModeCode
  let back := roundTrip p.yaeModeCode p.yaeModeRev .dig
  enc .fsk = enc .dig && enc .rtty = enc .dig && enc .dataUsb = enc .dig && enc .dataLsb = enc .dig &&
    allModes.all (returnsLawfully p.yaeModeCode p.yaeModeRev
      [(.dig, back), (.fsk, back), (.rtty, back), (.dataUsb, back), (.dataLsb, back)])

/-- The exact sum of a coefficient vector, in units of `2 ^ -fpScale`. -/
def unitSum (fmt : FpFormat) (values : List Sample) : Int := (values.map (unitsOf fmt)).foldl (· + ·) 0

/-- A coefficient vector may stand for `COEFF`: `N` finite values of the format whose sum is 1 up to rounding, here at
most one unit in the last place of 1 for each of them (R260; the bound is assumption log 12). -/
def coeffLegal (fmt : FpFormat) (r t : Nat) (values : List Sample) : Bool :=
  values.length = r * t && values.all (fun x => sampleFits fmt x && isFinite fmt x) &&
    (unitSum fmt values - 2 ^ fpScale fmt).natAbs * 2 ^ (fpPrec fmt - 1) ≤ values.length * 2 ^ fpScale fmt

/-- The parameters are ones the spec admits. -/
def strapsLegal (p : Straps) : Bool :=
  kwTablesLegal p && civTablesLegal p && yaeTablesLegal p && p.yaePttOn ≠ p.yaePttOff &&
    p.coeffTable.all fun e => coeffLegal p.fp e.r e.t e.values

/-- The form of the storage of a resampler: the bounds of `R` and `T`, `N` coefficients, `N` history elements, the
position below `N` (R40 to R43, R60). -/
abbrev storageLegal {α : Type} (u : FirState α) : Prop :=
  1 ≤ u.r ∧ 1 ≤ u.t ∧ 2 ≤ totalTaps u ∧ u.coeff.length = totalTaps u ∧ u.hist.length = totalTaps u ∧ u.pos < totalTaps u

/-- The byte that ends a frame on a variant that buffers (R207, R226). -/
def terminator : Variant → Option Byte
  | .kenwood => some kwTerm
  | .elecraft => some kwTerm
  | .icomCiv => some civEom
  | .yaesuCat => none

/-- The receive buffer at rest: not over the cap, without a terminator, and empty on YaesuCat (R29, R145, R246). -/
def rxbufLegal (p : Straps) (buf : List Byte) : Prop :=
  overCap p buf.length = false ∧
    match terminator p.variant with
    | some b => b ∉ buf
    | none => buf = []

/-- Every element of the sample stores is a value of the format (R41, R42). -/
def samplesLegal (fmt : FpFormat) (u : FirState Sample) : Prop :=
  (∀ x ∈ u.coeff, sampleFits fmt x = true) ∧ ∀ x ∈ u.hist, sampleFits fmt x = true

/-- The invariant of the machine. -/
structure Legal (s : State) : Prop where
  straps : strapsLegal s.straps = true
  storage : storageLegal s.rsmp
  samples : samplesLegal s.straps.fp s.rsmp
  rxbuf : rxbufLegal s.straps s.cat.rxbuf
  channel : channelFits s.straps s.cat.chan = true

/-- The outputs of the emission of one frame: one, to the byte sink if one is registered, else to the serial transport if
one is bound, else none (R130). -/
def emitEvents (s : State) (frame : Frame) : List Event :=
  match s.cat.sendCb with
  | some sink => [.txcb sink frame]
  | none => if s.straps.serialPresent then [.txser frame] else []

/-- The outputs of one acknowledge: one if a callback is registered, else none (R131). -/
def ackEvents (s : State) : List Event :=
  match s.cat.ackCb with
  | some cb => [.ack cb]
  | none => []

/-- An output with the frames for the serial transport handed to the byte sink `k` instead (R130). -/
def toSink (k : Nat) : Event → Event
  | .txser frame => .txcb k frame
  | .txcb sink frame => .txcb sink frame
  | .ack cb => .ack cb

/-- The frequency a decoder finds fits the unit's width. -/
def decodedFits (p : Straps) (f : Option Nat) : Bool :=
  match f with
  | some f => freqFits p f
  | none => false

/-- The operations the spec gives an effect on a unit with the straps `p`: the variant has the operation (R105 (a)), its
operands are values of its operand types (R24, R161), of its grammar (R209, D23) and within its bounds (R40). -/
def admitted (p : Straps) : Instr → Bool
  | .catSetch c => channelFits p c
  | .elSetpwr _ => p.variant = .elecraft
  | .elSetant a => p.variant = .elecraft && (a = 1 || a = 2)
  | .rsConstruct r t => 1 ≤ r && 1 ≤ t && 2 ≤ r * t
  | .rsDecimate xs => xs.all (sampleFits p.fp)
  | .rsInterp xs => xs.all (sampleFits p.fp)
  | .fqEncCiv f => freqFits p f
  | .fqEncYae f => freqFits p f
  | .fqEncKw f => freqFits p f
  | .fqDecCiv bs => decodedFits p (decCiv bs)
  | .fqDecYae bs => decodedFits p (decYae bs)
  | .fqDecKw cs => decodedFits p (decKw cs)
  | .kwFa _ | .kwMd _ | .kwTx | .kwRx => p.variant = .kenwood || p.variant = .elecraft
  | .elPc _ => p.variant = .elecraft
  | .elAn a => p.variant = .elecraft && (a = 1 || a = 2)
  | .civFreq rr _ | .civMode rr _ | .civPtt rr _ => p.variant = .icomCiv && rr = p.civRadioAddr
  | .yaeFreq _ | .yaeMode _ | .yaePttOn | .yaePttOff => p.variant = .yaesuCat
  | .catInit | .catShutdown | .catStart | .catStop | .catGetch | .catSetptt _ | .catIstx | .catIsrdy | .catPortcfg
  | .catRegsend _ | .catRegack _ | .catResp _ | .rsReset | .mdEncKw _ | .mdDecKw _ | .mdEncCiv _ | .mdDecCiv _
  | .mdEncYae _ | .mdDecYae _ | .kwRsp _ | .civAck _ _ _ | .civNak _ _ _ | .civOther _ | .yaeRsp _ => true

/-- Whether an operation is one in which bytes arrive (R29, R293): CAT.RESP and the received patterns. -/
def receives : Instr → Bool
  | .catResp _ | .kwRsp _ | .civAck _ _ _ | .civNak _ _ _ | .civOther _ | .yaeRsp _ => true
  | .catInit | .catShutdown | .catStart | .catStop | .catSetch _ | .catGetch | .catSetptt _ | .catIstx | .catIsrdy
  | .catPortcfg | .catRegsend _ | .catRegack _ | .elSetpwr _ | .elSetant _ | .rsConstruct _ _ | .rsDecimate _
  | .rsInterp _ | .rsReset | .fqEncCiv _ | .fqDecCiv _ | .fqEncYae _ | .fqDecYae _ | .fqEncKw _ | .fqDecKw _
  | .mdEncKw _ | .mdDecKw _ | .mdEncCiv _ | .mdDecCiv _ | .mdEncYae _ | .mdDecYae _ | .kwFa _ | .kwMd _ | .kwTx | .kwRx
  | .elPc _ | .elAn _ | .civFreq _ _ | .civMode _ _ | .civPtt _ _ | .yaeFreq _ | .yaeMode _ | .yaePttOn | .yaePttOff =>
    false

/-- Whether an operation is one of the RSMP unit (group 1 of R91). -/
def isResampler : Instr → Bool
  | .rsConstruct _ _ | .rsDecimate _ | .rsInterp _ | .rsReset => true
  | .catInit | .catShutdown | .catStart | .catStop | .catSetch _ | .catGetch | .catSetptt _ | .catIstx | .catIsrdy
  | .catPortcfg | .catRegsend _ | .catRegack _ | .catResp _ | .elSetpwr _ | .elSetant _
  | .fqEncCiv _ | .fqDecCiv _ | .fqEncYae _ | .fqDecYae _ | .fqEncKw _ | .fqDecKw _
  | .mdEncKw _ | .mdDecKw _ | .mdEncCiv _ | .mdDecCiv _ | .mdEncYae _ | .mdDecYae _ | .kwFa _ | .kwMd _ | .kwTx | .kwRx
  | .elPc _ | .elAn _ | .civFreq _ _ | .civMode _ _ | .civPtt _ _ | .yaeFreq _ | .yaeMode _ | .yaePttOn | .yaePttOff
  | .kwRsp _ | .civAck _ _ _ | .civNak _ _ _ | .civOther _ | .yaeRsp _ => false

/-- Exact arithmetic on the rationals, for the laws of R268. -/
def exactArith : Arith ℚ := ⟨0, (· + ·), (· * ·), fun n => (n : ℚ)⟩

end Sys2Proof.Machine
end

