-- ==== Sys2Proof/Certificates/Slice0/Obligations.lean ====
section
/-! DEFINITION. The statements about the machine, for the provers. -/

open Sys2Proof Sys2Proof.Machine

/-! ## Requests, decoding, encoding -/

/-- R12, R21: a step takes the first request of the agenda and runs the operation it decodes to on the state without that
request; a request that decodes to none is refused (R105 (a)); with no request nothing happens.  That the requests wait on
an agenda, and that an empty agenda changes nothing, is the model's choice (assumption log 1). -/
def Obligations.StepRunsTheDecodedRequest : Prop :=
  ∀ s : State,
    (s.agenda = [] → step s = .next s) ∧
    ∀ q rest, s.agenda = q :: rest →
      (∀ i, decode s.straps.variant q = .ok i → step s = exec i { s with agenda := rest }) ∧
      (∀ e, decode s.straps.variant q = .error e → step s = .refused (.undecodable e))

/-- Words written out from R100 to R104 decode to the operations they stand for. -/
def Obligations.WrittenOutWordsDecode : Prop :=
  decode .kenwood ⟨.host, [0x06, 0x01]⟩ = .ok (.catSetptt true) ∧
  decode .kenwood ⟨.host, [0x21, 0x00, 0x00, 0x25, 0x14, 0x00]⟩ = .ok (.fqDecCiv [0x00, 0x00, 0x25, 0x14, 0x00]) ∧
  decode .kenwood ⟨.tx, [0x46, 0x41, 0x30, 0x30, 0x30, 0x31, 0x34, 0x32, 0x35, 0x30, 0x30, 0x30, 0x30, 0x3B]⟩ =
    .ok (.kwFa 14250000) ∧
  decode .icomCiv ⟨.tx, [0xFE, 0xFE, 0x94, 0xE0, 0x05, 0x00, 0x00, 0x25, 0x14, 0x00, 0xFD]⟩ =
    .ok (.civFreq 0x94 14250000) ∧
  decode .yaesuCat ⟨.tx, [0x01, 0x42, 0x50, 0x00, 0x01]⟩ = .ok (.yaeFreq 1425000) ∧
  decode .icomCiv ⟨.rx, [0xFE, 0xFE, 0xE0, 0x94, 0xFB, 0xFD]⟩ = .ok (.civAck 0xE0 0x94 [])

/-- R100 to R104, R109: the decoder gives back every well-formed operation from its encoding, with every operand at every
value its encoding admits; a received pattern on the variants that have it. -/
def Obligations.DecodeOfEncodeIsTheOperation : Prop :=
  ∀ (v : Variant) (i : Instr), i.wellFormed = true → (i.direction = .rx → v ∈ i.variants) → decode v (encode i) = .ok i

/-- R101 to R104: the bytes of an emitted frame have one meaning, and encoding it gives them back; received bytes are those
of the pattern they decode to, or the operand of the CAT.RESP they decode to. -/
def Obligations.WireBytesHaveOneMeaning : Prop :=
  (∀ (v : Variant) (bs : List Byte) (i : Instr), decode v ⟨.tx, bs⟩ = .ok i → i.direction = .tx ∧ encodeBytes i = bs) ∧
  ∀ (v : Variant) (bs : List Byte) (i : Instr), decode v ⟨.rx, bs⟩ = .ok i →
    i = .catResp bs ∨ (i.direction = .rx ∧ v ∈ i.variants ∧ encodeBytes i = bs)

/-- R90 to R109: an operation that a host request or an emitted frame decodes to is well formed.  For a host request this is
about the model's own byte form of the operands and its bound 2^2040 (assumption log 2); received patterns are in
WireBytesHaveOneMeaning. -/
def Obligations.DecodedOperationIsWellFormed : Prop :=
  ∀ (v : Variant) (q : Request) (i : Instr), q.dir ≠ .rx → decode v q = .ok i → i.wellFormed = true

/-! ## The whole machine -/

/-- R29, R40 to R43, R60, R145, R185: every step keeps the state legal: parameters the spec admits, the storage spaces of
their form with every element a value of the format, the receive buffer not over the cap and without a terminator, the
stored Channel of the unit's widths.
The bounds of `R` and `T`, the widths and the cap are the spec's decisions D7, D8 and D17. -/
def Obligations.EveryStepKeepsTheStateLegal : Prop :=
  ∀ s t : State, Legal s → step s = .next t → Legal t

/-- The state after reset is legal (R35, R47).
The default parameters are the spec's decisions, the variant and the first Channel the model's choice (assumption logs 5
and 7). -/
def Obligations.ResetStateIsLegal : Prop := Legal State.reset

/-- R35, R47: what reset leaves: no flag, no byte, no callback, no output, a resampler with the default ratio and taps, a
zero history and 48 finite coefficients of sum 1 up to rounding (R260; the bound is assumption log 12).  The values of the
CAT unit are the spec's decision D13; that the unit that stands after reset is an Elecraft without a serial transport is
the model's choice (assumption log 7). -/
def Obligations.ResetLeavesTheConstructedUnits : Prop :=
  State.reset.cat.ready = false ∧ State.reset.cat.tx = false ∧ State.reset.cat.rxbuf = [] ∧
  State.reset.cat.sendCb = none ∧ State.reset.cat.ackCb = none ∧ State.reset.events = [] ∧
  State.reset.rsmp.r = 6 ∧ State.reset.rsmp.t = 8 ∧ State.reset.rsmp.pos = 0 ∧
  State.reset.rsmp.hist = List.replicate 48 fzero ∧
  coeffLegal .binary64 6 8 State.reset.rsmp.coeff = true

/-- R3, R33, R34: no step writes a strap or a parameter, and none takes back an output: the record only grows at its end.
That a step takes one request off the agenda is the model's choice (assumption log 1), and that none writes the index of
the free Channel is its assumption log 6. -/
def Obligations.StepsKeepStrapsAndExtendTheRecord : Prop :=
  ∀ s t : State, step s = .next t →
    t.straps = s.straps ∧ s.events <+: t.events ∧ t.agenda = s.agenda.tail ∧ t.freeIndex = s.freeIndex

/-- R25, R27, R28, R29, R31, R32, R41, R42, R43: each state element is written only by the operations its rule names.
That a registered callback is only ever replaced is the spec's decision D26 (assumption log 32). -/
def Obligations.StateElementsHaveOnlyTheirWriters : Prop :=
  ∀ (i : Instr) (s t : State), exec i s = .next t →
    (t.cat.chan ≠ s.cat.chan → i = .catSetch t.cat.chan) ∧
    (t.cat.tx ≠ s.cat.tx → i = .catSetptt t.cat.tx) ∧
    (t.cat.ready ≠ s.cat.ready → i = .catInit ∧ t.cat.ready = true ∨ i = .catShutdown ∧ t.cat.ready = false) ∧
    (t.cat.rxbuf ≠ s.cat.rxbuf → i = .catInit ∨ receives i = true) ∧
    (t.cat.sendCb ≠ s.cat.sendCb → ∃ k, i = .catRegsend k ∧ t.cat.sendCb = some k) ∧
    (t.cat.ackCb ≠ s.cat.ackCb → ∃ k, i = .catRegack k ∧ t.cat.ackCb = some k) ∧
    (t.rsmp.coeff ≠ s.rsmp.coeff → ∃ r n, i = .rsConstruct r n ∧ t.rsmp.r = r ∧ t.rsmp.t = n) ∧
    (t.rsmp.hist ≠ s.rsmp.hist ∨ t.rsmp.pos ≠ s.rsmp.pos → isResampler i = true)

/-- R2, R20: the operations of the RSMP unit leave the CAT unit and its outputs as they are, all others leave the RSMP unit
as it is. -/
def Obligations.UnitsShareNoState : Prop :=
  ∀ (i : Instr) (s t : State), exec i s = .next t →
    (isResampler i = true → t.cat = s.cat ∧ t.events = s.events ∧ t.freeIndex = s.freeIndex) ∧
    (isResampler i = false → t.rsmp = s.rsmp)

/-- R2, R20, R75 (d): what an operation does to one unit, and what it returns, does not depend on the other: two states with
the same straps that agree on the CAT unit (on the RSMP unit) are taken to states that agree on it, with the same result
for an operation of that unit, and the operation goes on in both or in neither. -/
def Obligations.UnitsDoNotInfluenceEachOther : Prop :=
  ∀ (i : Instr) (s s' t : State), s.straps = s'.straps → exec i s = .next t →
    ∃ t', exec i s' = .next t' ∧
      (s.cat = s'.cat → s.events = s'.events → t.cat = t'.cat ∧ t.events = t'.events) ∧
      (s.rsmp = s'.rsmp → t.rsmp = t'.rsmp) ∧
      (isResampler i = false → s.cat = s'.cat → s.freeIndex = s'.freeIndex → t.result = t'.result) ∧
      (isResampler i = true → s.rsmp = s'.rsmp → t.result = t'.result)

/-- R290, R292: an operation the spec gives an effect answers a next state from every state, and any other is refused: no
operation faults.  `admitted` says which have an effect (R24, R40, R105 (a), R161, R209).
What is refused is the spec's decisions D2, D7, D8, D21, D23 and D28; a frame as an operation is the model's choice
(assumption log 3). -/
def Obligations.OperationsRunExactlyWhenAdmitted : Prop :=
  ∀ (i : Instr) (s : State),
    (admitted s.straps i = true → ∃ t, exec i s = .next t) ∧
    (admitted s.straps i = false → ∃ r, exec i s = .refused r)

/-- R298: while the unit is not ready no operation hands a frame to either destination.
For a frame as an operation of its own this is the model's choice (assumption log 3). -/
def Obligations.NoFrameLeavesWhenNotReady : Prop :=
  ∀ (i : Instr) (s t : State), s.cat.ready = false → exec i s = .next t → txcb t = txcb s ∧ txser t = txser s

/-- R130, R131: an emission hands its frame to the registered sink, or to the serial transport where no sink is registered
and one is bound, or to neither.  What an operation appends to the record is frames so handed out and calls of the
registered acknowledge callback; a frame that the serial transport would have taken goes to a sink instead as soon as one
is registered, in the same place and order, and none is lost.  That the count `write` returns plays no part is the spec's
decision D16. -/
def Obligations.RegisteredSinkTakesEveryFrame : Prop :=
  (∀ (s : State) (frame : Frame),
    (∀ k, s.cat.sendCb = some k → emit s frame = { s with events := s.events ++ [.txcb k frame] }) ∧
    (s.cat.sendCb = none → s.straps.serialPresent = true →
      emit s frame = { s with events := s.events ++ [.txser frame] }) ∧
    (s.cat.sendCb = none → s.straps.serialPresent = false → emit s frame = s)) ∧
  ∀ (i : Instr) (s t : State), exec i s = .next t →
    ∃ new : List Event, t.events = s.events ++ new ∧
      (∀ e ∈ new, match e with
        | .txcb sink _ => s.cat.sendCb = some sink
        | .txser _ => s.cat.sendCb = none ∧ s.straps.serialPresent = true
        | .ack cb => s.cat.ackCb = some cb) ∧
      (s.cat.sendCb = none → s.straps.serialPresent = true → ∀ (k : Nat) (b : Bool), ∃ t',
        exec i { s with
          straps := { s.straps with serialPresent := b }
          cat := { s.cat with sendCb := some k } } = .next t' ∧
        t'.events = s.events ++ new.map (toSink k))

/-- R131, R293: only an operation in which bytes arrive causes an acknowledge event, and only with a callback registered.
That nothing fires without one is the spec's decision D18 (assumption log 24). -/
def Obligations.OnlyReceptionAcknowledges : Prop :=
  ∀ (i : Instr) (s t : State), exec i s = .next t →
    (receives i = false → acks t = acks s) ∧ (s.cat.ackCb = none → acks t = acks s)

/-! ## Lifecycle, accessors, registration -/

/-- R133: CAT.SHUTDOWN clears `ready` and nothing else, from every state; a second one changes nothing; `op` is 01. -/
def Obligations.ShutdownClearsReadyOnly : Prop :=
  (∀ s : State, exec .catShutdown s = .next { s with cat := { s.cat with ready := false }, result := .void }) ∧
  (∀ s t : State, exec .catShutdown s = .next t → exec .catShutdown t = .next t) ∧
  ∀ v : Variant, decode v ⟨.host, [0x01]⟩ = .ok .catShutdown

/-- R134: CAT.START returns the readiness flag and changes nothing else; `op` is 02. -/
def Obligations.StartReturnsReady : Prop :=
  (∀ s : State, exec .catStart s = .next { s with result := .bool s.cat.ready }) ∧
  ∀ v : Variant, decode v ⟨.host, [0x02]⟩ = .ok .catStart

/-- R140, R141: the pure accessors CAT.ISTX and CAT.ISRDY, with `op` 07 and 08; CAT.ISTX after CAT.SETPTT reports its
operand, and CAT.ISRDY answers as CAT.START does.  That it does so also on a unit that was not ready is the spec's decision
D15 (assumption log 21). -/
def Obligations.FlagAccessorsReportTheFlags : Prop :=
  (∀ s : State, exec .catIstx s = .next { s with result := .bool s.cat.tx }) ∧
  (∀ s : State, exec .catIsrdy s = .next { s with result := .bool s.cat.ready }) ∧
  (∀ s : State, exec .catIsrdy s = exec .catStart s) ∧
  (∀ (b : Bool) (s t : State), exec (.catSetptt b) s = .next t → exec .catIstx t = .next { t with result := .bool b }) ∧
  ∀ v : Variant, decode v ⟨.host, [0x07]⟩ = .ok .catIstx ∧ decode v ⟨.host, [0x08]⟩ = .ok .catIsrdy

/-- R132, R135: CAT.INIT empties the receive buffer and sets `ready`, and a second one changes nothing (R73); CAT.STOP
changes nothing.  That both return 1 is the spec's decision D14. -/
def Obligations.InitAndStopComplete : Prop :=
  (∀ s : State,
    exec .catInit s = .next { s with cat := { s.cat with rxbuf := [], ready := true }, result := .bool true } ∧
    exec .catStop s = .next { s with result := .bool true }) ∧
  ∀ s t : State, exec .catInit s = .next t → exec .catInit t = .next t

/-- R95, R139, R211, R230, R249: the port-configuration strings as bytes, "9600,n,8,1", "38400,n,8,1", "9600,n,8,1" and
"9600,n,8,2"; nothing else changes. -/
def Obligations.PortConfigurationStrings : Prop :=
  ∀ s : State, exec .catPortcfg s = .next { s with result := .text (
    match s.straps.variant with
    | .kenwood => [0x39, 0x36, 0x30, 0x30, 0x2C, 0x6E, 0x2C, 0x38, 0x2C, 0x31]
    | .elecraft => [0x33, 0x38, 0x34, 0x30, 0x30, 0x2C, 0x6E, 0x2C, 0x38, 0x2C, 0x31]
    | .icomCiv => [0x39, 0x36, 0x30, 0x30, 0x2C, 0x6E, 0x2C, 0x38, 0x2C, 0x31]
    | .yaesuCat => [0x39, 0x36, 0x30, 0x30, 0x2C, 0x6E, 0x2C, 0x38, 0x2C, 0x32]) }

/-- R31, R32, R142, R143: a registration stores its callback in the place of any other and changes nothing else. -/
def Obligations.RegistrationReplacesTheCallback : Prop :=
  ∀ (s : State) (k : Nat),
    exec (.catRegsend k) s = .next { s with cat := { s.cat with sendCb := some k }, result := .void } ∧
    exec (.catRegack k) s = .next { s with cat := { s.cat with ackCb := some k }, result := .void }

/-! ## Channel and PTT -/

/-- R136, R201, R202, R205: on Kenwood and Elecraft, ready and with a destination, CAT.SETCH emits the `FA` frame and then
the `MD` frame, stores the Channel and returns 1.
Digits above the field are dropped (the spec's decision D9). -/
def Obligations.KenwoodSetChannelEmitsFaThenMd : Prop :=
  ∀ (s : State) (c : Channel), (s.straps.variant = .kenwood ∨ s.straps.variant = .elecraft) →
    s.cat.ready = true → (s.cat.sendCb ≠ none ∨ s.straps.serialPresent = true) → channelFits s.straps c = true →
    exec (.catSetch c) s = .next { s with
      events := s.events ++
        emitEvents s ([0x46, 0x41] ++
          [ascDigit (digit c.rxFrequency 10), ascDigit (digit c.rxFrequency 9), ascDigit (digit c.rxFrequency 8),
           ascDigit (digit c.rxFrequency 7), ascDigit (digit c.rxFrequency 6), ascDigit (digit c.rxFrequency 5),
           ascDigit (digit c.rxFrequency 4), ascDigit (digit c.rxFrequency 3), ascDigit (digit c.rxFrequency 2),
           ascDigit (digit c.rxFrequency 1), ascDigit (digit c.rxFrequency 0)] ++ [0x3B]) ++
        emitEvents s [0x4D, 0x44, ascDigit (encodeMode s.straps.kwModeCode c.rxMode).val, 0x3B]
      cat := { s.cat with chan := c, chanSet := true }
      result := .bool true }

/-- R136, R220 to R222, R224: on IcomCiv, ready and with a destination, CAT.SETCH emits CIV.FREQ and then CIV.MODE, stores
the Channel and returns 1.
Digits above the field are dropped (the spec's decision D9). -/
def Obligations.IcomSetChannelEmitsFreqThenMode : Prop :=
  ∀ (s : State) (c : Channel), s.straps.variant = .icomCiv →
    s.cat.ready = true → (s.cat.sendCb ≠ none ∨ s.straps.serialPresent = true) → channelFits s.straps c = true →
    exec (.catSetch c) s = .next { s with
      events := s.events ++
        emitEvents s [0xFE, 0xFE, s.straps.civRadioAddr, 0xE0, 0x05,
          bcd (digit c.rxFrequency 1) (digit c.rxFrequency 0), bcd (digit c.rxFrequency 3) (digit c.rxFrequency 2),
          bcd (digit c.rxFrequency 5) (digit c.rxFrequency 4), bcd (digit c.rxFrequency 7) (digit c.rxFrequency 6),
          bcd (digit c.rxFrequency 9) (digit c.rxFrequency 8), 0xFD] ++
        emitEvents s [0xFE, 0xFE, s.straps.civRadioAddr, 0xE0, 0x06, encodeMode s.straps.civModeCode c.rxMode, 0xFD]
      cat := { s.cat with chan := c, chanSet := true }
      result := .bool true }

/-- R136, R162, R240 to R242, R245: on YaesuCat, ready and with a destination, CAT.SETCH emits YAE.FREQ and then YAE.MODE,
stores the Channel (its 1 Hz digit too) and returns 1.
Digits above the field are dropped (the spec's decision D9). -/
def Obligations.YaesuSetChannelEmitsFreqThenMode : Prop :=
  ∀ (s : State) (c : Channel), s.straps.variant = .yaesuCat →
    s.cat.ready = true → (s.cat.sendCb ≠ none ∨ s.straps.serialPresent = true) → channelFits s.straps c = true →
    exec (.catSetch c) s = .next { s with
      events := s.events ++
        emitEvents s [bcd (digit (c.rxFrequency / 10) 7) (digit (c.rxFrequency / 10) 6),
          bcd (digit (c.rxFrequency / 10) 5) (digit (c.rxFrequency / 10) 4),
          bcd (digit (c.rxFrequency / 10) 3) (digit (c.rxFrequency / 10) 2),
          bcd (digit (c.rxFrequency / 10) 1) (digit (c.rxFrequency / 10) 0), 0x01] ++
        emitEvents s [encodeMode s.straps.yaeModeCode c.rxMode, 0x00, 0x00, 0x00, 0x07]
      cat := { s.cat with chan := c, chanSet := true }
      result := .bool true }

/-- R136, R291 F1 and F2: CAT.SETCH of a unit that is not ready, or has no destination, returns 0 and does nothing else.
That the stored Channel is then unchanged is the spec's decision D16. -/
def Obligations.SetChannelFailsWithoutReadyOrDestination : Prop :=
  ∀ (s : State) (c : Channel), channelFits s.straps c = true →
    (s.cat.ready = false ∨ s.cat.sendCb = none ∧ s.straps.serialPresent = false) →
    exec (.catSetch c) s = .next { s with result := .bool false }

/-- R137: after a CAT.SETCH has succeeded CAT.GETCH returns the stored Channel: the one of the last CAT.SETCH that succeeded;
a CAT.SETCH that fails leaves it (the spec's decision D16, assumption log 22).  Before any success (R35, U1) it returns
some Channel (assumption log 6).  In every case it changes nothing but the result, and a second CAT.GETCH returns the same
(R73). -/
def Obligations.GetChannelReturnsTheLastAccepted : Prop :=
  (∀ s : State, s.cat.chanSet = true → exec .catGetch s = .next { s with result := .channel s.cat.chan }) ∧
  (∀ (s t : State) (c : Channel), exec (.catSetch c) s = .next t → t.result = .bool true →
    exec .catGetch t = .next { t with result := .channel c }) ∧
  (∀ (s t : State) (c c' : Channel), s.cat.chanSet = true → s.cat.chan = c' → exec (.catSetch c) s = .next t →
    t.result = .bool false → exec .catGetch t = .next { t with result := .channel c' }) ∧
  ∀ s : State, ∃ c, exec .catGetch s = .next { s with result := .channel c } ∧
    exec .catGetch { s with result := .channel c } = .next { s with result := .channel c }

/-- R138, R203, R204, R223, R243, R244: CAT.SETPTT emits the variant's one transmit or receive frame when ready, and writes
`tx` always.  That `tx` is written also when not ready is the spec's decision D15. -/
def Obligations.SetPttEmitsWhenReadyAndWritesTx : Prop :=
  ∀ (s : State) (b : Bool), exec (.catSetptt b) s = .next { s with
    events := s.events ++ (if s.cat.ready then emitEvents s (
      match s.straps.variant with
      | .kenwood => if b then [0x54, 0x58, 0x3B] else [0x52, 0x58, 0x3B]
      | .elecraft => if b then [0x54, 0x58, 0x3B] else [0x52, 0x58, 0x3B]
      | .icomCiv => [0xFE, 0xFE, s.straps.civRadioAddr, 0xE0, 0x1C, 0x00, if b then 0x01 else 0x00, 0xFD]
      | .yaesuCat => if b then yae5Frame s.straps.yaePttOn else yae5Frame s.straps.yaePttOff) else [])
    cat := { s.cat with tx := b }
    result := .void }

/-- R208, R209: on Elecraft EL.SETPWR emits "PC", the low three decimal digits, ";" and EL.SETANT, for the antennas 1 and
2, "AN", the digit, ";", both when ready only, and neither changes anything else.  The operands are the spec's decision
D21. -/
def Obligations.ElecraftCommandsEmitTheirFrame : Prop :=
  ∀ s : State, s.straps.variant = .elecraft →
    (∀ w : Nat, exec (.elSetpwr w) s = .next { s with
      events := s.events ++ (if s.cat.ready then
        emitEvents s [0x50, 0x43, ascDigit (digit w 2), ascDigit (digit w 1), ascDigit (digit w 0), 0x3B] else [])
      result := .void }) ∧
    (∀ a : Byte, a = 1 ∨ a = 2 → exec (.elSetant a) s = .next { s with
      events := s.events ++ (if s.cat.ready then emitEvents s [0x41, 0x4E, 0x30 + a, 0x3B] else [])
      result := .void })

/-- R105 (a), R209: what selects no operation is refused: an `op` code that is not in R100, EL.SETPWR and EL.SETANT of another
variant, and EL.SETANT of an antenna other than 1 and 2 (the spec's decisions D21 and D28). -/
def Obligations.WhatSelectsNoOperationIsRefused : Prop :=
  ∀ s : State,
    (∀ (op : Byte) (operands : List Byte) (rest : List Request),
      s.agenda = ⟨.host, op :: operands⟩ :: rest →
      (0x0E < op.toNat ∧ op.toNat < 0x10 ∨ 0x13 < op.toNat ∧ op.toNat < 0x20 ∨ 0x25 < op.toNat ∧ op.toNat < 0x28 ∨
        0x2D < op.toNat) →
      step s = .refused (.undecodable (.unknownOperation op))) ∧
    (s.straps.variant ≠ .elecraft → ∀ (w : Nat) (a : Byte),
      exec (.elSetpwr w) s = .refused .notThisVariant ∧ exec (.elSetant a) s = .refused .notThisVariant) ∧
    (s.straps.variant = .elecraft → ∀ a : Byte, a ≠ 1 → a ≠ 2 →
      exec (.elSetant a) s = .refused .antennaOutsideGrammar)

/-! ## Emitted frames -/

/-- R92, R101, R201 to R204, R208, R209: each ASCII frame as an operation of its own hands out exactly its bytes when ready
and changes nothing else.  That a frame is an operation is the model's choice (assumption log 3). -/
def Obligations.AsciiFramesAreEmittedByteForByte : Prop :=
  ∀ s : State,
    (s.straps.variant = .kenwood ∨ s.straps.variant = .elecraft →
      (∀ f : Nat, exec (.kwFa f) s = .next { s with
        events := s.events ++ (if s.cat.ready then emitEvents s ([0x46, 0x41] ++
          [ascDigit (digit f 10), ascDigit (digit f 9), ascDigit (digit f 8), ascDigit (digit f 7), ascDigit (digit f 6),
           ascDigit (digit f 5), ascDigit (digit f 4), ascDigit (digit f 3), ascDigit (digit f 2), ascDigit (digit f 1),
           ascDigit (digit f 0)] ++ [0x3B]) else [])
        result := .void }) ∧
      (∀ d : Fin 10, exec (.kwMd d) s = .next { s with
        events := s.events ++ (if s.cat.ready then emitEvents s [0x4D, 0x44, ascDigit d.val, 0x3B] else [])
        result := .void }) ∧
      (exec .kwTx s = .next { s with
        events := s.events ++ (if s.cat.ready then emitEvents s [0x54, 0x58, 0x3B] else [])
        result := .void }) ∧
      (exec .kwRx s = .next { s with
        events := s.events ++ (if s.cat.ready then emitEvents s [0x52, 0x58, 0x3B] else [])
        result := .void })) ∧
    (s.straps.variant = .elecraft →
      (∀ w : Nat, exec (.elPc w) s = .next { s with
        events := s.events ++ (if s.cat.ready then
          emitEvents s [0x50, 0x43, ascDigit (digit w 2), ascDigit (digit w 1), ascDigit (digit w 0), 0x3B] else [])
        result := .void }) ∧
      (∀ a : Fin 10, a = 1 ∨ a = 2 → exec (.elAn a) s = .next { s with
        events := s.events ++ (if s.cat.ready then emitEvents s [0x41, 0x4E, ascDigit a.val, 0x3B] else [])
        result := .void }))

/-- R93, R102, R220 to R223: each CI-V frame as an operation of its own, to the unit's radio address, hands out exactly its
bytes when ready and changes nothing else (a frame as an operation: assumption log 3). -/
def Obligations.CivFramesAreEmittedByteForByte : Prop :=
  ∀ s : State, s.straps.variant = .icomCiv →
    (∀ f : Nat, exec (.civFreq s.straps.civRadioAddr f) s = .next { s with
      events := s.events ++ (if s.cat.ready then emitEvents s
        [0xFE, 0xFE, s.straps.civRadioAddr, 0xE0, 0x05, bcd (digit f 1) (digit f 0), bcd (digit f 3) (digit f 2),
         bcd (digit f 5) (digit f 4), bcd (digit f 7) (digit f 6), bcd (digit f 9) (digit f 8), 0xFD] else [])
      result := .void }) ∧
    (∀ mm : Byte, exec (.civMode s.straps.civRadioAddr mm) s = .next { s with
      events := s.events ++ (if s.cat.ready then emitEvents s
        [0xFE, 0xFE, s.straps.civRadioAddr, 0xE0, 0x06, mm, 0xFD] else [])
      result := .void }) ∧
    (∀ p : Bool, exec (.civPtt s.straps.civRadioAddr p) s = .next { s with
      events := s.events ++ (if s.cat.ready then emitEvents s
        [0xFE, 0xFE, s.straps.civRadioAddr, 0xE0, 0x1C, 0x00, if p then 0x01 else 0x00, 0xFD] else [])
      result := .void })

/-- R94, R103, R240 to R244: each Yaesu frame as an operation of its own hands out exactly its five bytes when ready and
changes nothing else (a frame as an operation: assumption log 3). -/
def Obligations.YaesuFramesAreEmittedByteForByte : Prop :=
  ∀ s : State, s.straps.variant = .yaesuCat →
    (∀ q : Nat, exec (.yaeFreq q) s = .next { s with
      events := s.events ++ (if s.cat.ready then emitEvents s
        [bcd (digit q 7) (digit q 6), bcd (digit q 5) (digit q 4), bcd (digit q 3) (digit q 2),
         bcd (digit q 1) (digit q 0), 0x01] else [])
      result := .void }) ∧
    (∀ mm : Byte, exec (.yaeMode mm) s = .next { s with
      events := s.events ++ (if s.cat.ready then emitEvents s [mm, 0x00, 0x00, 0x00, 0x07] else [])
      result := .void }) ∧
    (exec .yaePttOn s = .next { s with
      events := s.events ++ (if s.cat.ready then emitEvents s
        [s.straps.yaePttOn.p1, s.straps.yaePttOn.p2, s.straps.yaePttOn.p3, s.straps.yaePttOn.p4, s.straps.yaePttOn.cmd]
        else [])
      result := .void }) ∧
    (exec .yaePttOff s = .next { s with
      events := s.events ++ (if s.cat.ready then emitEvents s
        [s.straps.yaePttOff.p1, s.straps.yaePttOff.p2, s.straps.yaePttOff.p3, s.straps.yaePttOff.p4,
         s.straps.yaePttOff.cmd] else [])
      result := .void })

/-- R92, R106: an emitted CI-V frame has its one end marker at the end, provided neither the radio address nor the mode code
is FD; an emitted ASCII frame has its one terminator at the end, and every byte of it has bit 7 clear. -/
def Obligations.EmittedFramesHaveOneTerminator : Prop :=
  (∀ (rr mm : Byte) (f : Nat) (p : Bool), rr ≠ 0xFD → mm ≠ 0xFD →
    ∀ frame ∈ [civFreqFrame rr f, civModeFrame rr mm, civPttFrame rr p],
      frame.getLast? = some 0xFD ∧ (0xFD : Byte) ∉ frame.dropLast) ∧
  ∀ (f w : Nat) (d a : Fin 10),
    ∀ frame ∈ [kwFaFrame f, kwMdFrame d, kwTxFrame, kwRxFrame, elPcFrame w, elAnFrame a.val],
      frame.getLast? = some 0x3B ∧ (0x3B : Byte) ∉ frame.dropLast ∧ ∀ b ∈ frame, b.msb = false

/-! ## Reception -/

/-- R207: one received byte on Kenwood and Elecraft: ';' acknowledges and clears whatever precedes it, any other byte is
kept unless the guard clears the buffer; nothing else changes.  With a callback registered, the acknowledge events of one
CAT.RESP are as many as the ';' bytes in it.
The guard's comparison and place are the spec's decision D17.
That reception is not gated by `ready`, and that nothing fires without a callback, is the spec's decision D18 (assumption
log 24). -/
def Obligations.SemicolonsAcknowledge : Prop :=
  ∀ s : State, (s.straps.variant = .kenwood ∨ s.straps.variant = .elecraft) →
    (∀ b : Byte, exec (.catResp [b]) s = .next (
      if b = 0x3B then
        { s with events := s.events ++ ackEvents s, cat := { s.cat with rxbuf := [] }, result := .void }
      else if overCap s.straps (s.cat.rxbuf.length + 1) then
        { s with cat := { s.cat with rxbuf := [] }, result := .void }
      else { s with cat := { s.cat with rxbuf := s.cat.rxbuf ++ [b] }, result := .void })) ∧
    ∀ (bytes : List Byte) (cb : Nat), s.cat.ackCb = some cb →
      ∃ buf, exec (.catResp bytes) s = .next { s with
        events := s.events ++ List.replicate (bytes.count 0x3B) (.ack cb)
        cat := { s.cat with rxbuf := buf }
        result := .void }

/-- R226 to R229: one received byte on IcomCiv: at FD the buffer is cleared in every case, and an acknowledge fires exactly
when it is at least 6 bytes long with FD, begins FE FE and holds FB at offset 4; any other byte is kept unless the guard
clears the buffer; nothing else changes.  The guard is the spec's decision D17 (where the parameter `RX_GUARD` puts it
before the terminator test, an FD over the cap finds nothing to inspect), the silent NAK its U5.
That reception is not gated by `ready`, and that nothing fires without a callback, is the spec's decision D18 (assumption
log 24). -/
def Obligations.EndMarkerInspectsTheCivBuffer : Prop :=
  ∀ (s : State) (b : Byte), s.straps.variant = .icomCiv →
    exec (.catResp [b]) s = .next (
      if b = 0xFD then
        (if 5 ≤ s.cat.rxbuf.length ∧ s.cat.rxbuf[0]? = some 0xFE ∧ s.cat.rxbuf[1]? = some 0xFE ∧
            s.cat.rxbuf[4]? = some 0xFB ∧
            (s.straps.rxGuard.place = .beforeTest → overCap s.straps (s.cat.rxbuf.length + 1) = false) then
          { s with events := s.events ++ ackEvents s, cat := { s.cat with rxbuf := [] }, result := .void }
        else { s with cat := { s.cat with rxbuf := [] }, result := .void })
      else if overCap s.straps (s.cat.rxbuf.length + 1) then
        { s with cat := { s.cat with rxbuf := [] }, result := .void }
      else { s with cat := { s.cat with rxbuf := s.cat.rxbuf ++ [b] }, result := .void })

/-- R104, R207: the pattern KW.RSP on Kenwood and Elecraft, whatever the buffer holds: one acknowledge, an empty buffer.
That reception is not gated by `ready`, and that nothing fires without a callback, is the spec's decision D18 (assumption
log 24). -/
def Obligations.KenwoodResponseAcknowledgesOnce : Prop :=
  ∀ (s : State) (before : List Byte), (s.straps.variant = .kenwood ∨ s.straps.variant = .elecraft) →
    Instr.wellFormed (.kwRsp before) = true →
    exec (.kwRsp before) s = .next { s with
      events := s.events ++ ackEvents s
      cat := { s.cat with rxbuf := [] }
      result := .void }

/-- R104, R226 to R229: a CI-V frame that arrives whole at an empty buffer and that the guard does not cut, on IcomCiv:
CIV.ACK acknowledges once, CIV.NAK and CIV.OTHER do nothing, and the buffer is empty after each.  The cap and the place of
the guard are the spec's decision D17, the silent NAK its U5.
That reception is not gated by `ready`, and that nothing fires without a callback, is the spec's decision D18 (assumption
log 24). -/
def Obligations.WholeCivFramesAcknowledgeOnAckOnly : Prop :=
  ∀ (s : State) (x y : Byte) (rest before : List Byte), s.straps.variant = .icomCiv → s.cat.rxbuf = [] →
    (Instr.wellFormed (.civAck x y rest) = true →
      (s.straps.rxGuard.place = .callEnd ∨ overCap s.straps (5 + rest.length) = false) →
      (s.straps.rxGuard.place = .beforeTest → overCap s.straps (6 + rest.length) = false) →
      exec (.civAck x y rest) s = .next { s with events := s.events ++ ackEvents s, result := .void }) ∧
    (Instr.wellFormed (.civNak x y rest) = true →
      (s.straps.rxGuard.place = .callEnd ∨ overCap s.straps (5 + rest.length) = false) →
      exec (.civNak x y rest) s = .next { s with result := .void }) ∧
    (Instr.wellFormed (.civOther before) = true →
      (s.straps.rxGuard.place = .callEnd ∨ overCap s.straps before.length = false) →
      exec (.civOther before) s = .next { s with result := .void })

/-- R131, R246: on YaesuCat any non-empty receipt fires one acknowledge and an empty one nothing; no byte is stored (the
spec's decision D19).
That reception is not gated by `ready`, and that nothing fires without a callback, is the spec's decision D18 (assumption
log 24). -/
def Obligations.YaesuReceiptAcknowledgesOnce : Prop :=
  ∀ (s : State) (bytes : List Byte), s.straps.variant = .yaesuCat →
    (bytes ≠ [] →
      exec (.catResp bytes) s = .next { s with events := s.events ++ ackEvents s, result := .void } ∧
      exec (.yaeRsp bytes) s = .next { s with events := s.events ++ ackEvents s, result := .void }) ∧
    exec (.catResp []) s = .next { s with result := .void }

/-- R145: bytes that never end a frame cause no event, and the buffer starts again from empty each time one byte more than
it may hold has come: its length runs modulo 257, or modulo 256 with the other comparison of `RX_GUARD`; where `RX_GUARD`
puts the guard at the end of the call, the buffer is emptied once if it is then over the cap (the spec's decision D17).
That the bytes are buffered also when the unit is not ready is the spec's decision D18 (assumption log 24). -/
def Obligations.OverflowGuardClearsSilently : Prop :=
  ∀ (s : State) (bytes : List Byte) (b : Byte), terminator s.straps.variant = some b → b ∉ bytes →
    overCap s.straps s.cat.rxbuf.length = false →
    ∃ buf, exec (.catResp bytes) s = .next { s with cat := { s.cat with rxbuf := buf }, result := .void } ∧
      buf.length =
        if s.straps.rxGuard.place = .callEnd then
          (if overCap s.straps (s.cat.rxbuf.length + bytes.length) then 0 else s.cat.rxbuf.length + bytes.length)
        else (s.cat.rxbuf.length + bytes.length) % (match s.straps.rxGuard.compare with | .more => 257 | .atLeast => 256)

/-- R144: on Kenwood, Elecraft and IcomCiv two receptions one after the other are the reception of all their bytes.  Where
`RX_GUARD` puts the guard at the end of a call (the spec's decision D17 leaves that open) this holds as long as the first
call stays under the cap.  That it holds also when the unit is not ready is the spec's decision D18 (assumption log 24). -/
def Obligations.ReceptionDependsOnTheConcatenation : Prop :=
  ∀ (s t : State) (bs cs : List Byte), s.straps.variant ≠ .yaesuCat →
    (s.straps.rxGuard.place ≠ .callEnd ∨ overCap s.straps (s.cat.rxbuf.length + bs.length) = false) →
    exec (.catResp bs) s = .next t → exec (.catResp cs) t = exec (.catResp (bs ++ cs)) s

/-! ## Frequency functions and mode maps -/

/-- R160, R162, R164: the three frequency encoders: five BCD bytes least significant first, four BCD bytes of the tens of
hertz most significant first, eleven ASCII digits most significant first; nothing but the result changes; `op` is 20, 22
and 24.
For a frequency out of range that is the spec's decision D9; an operand of more than `FREQ_W` bits is no frequency. -/
def Obligations.FrequencyEncodersGiveTheirDigits : Prop :=
  ∀ (s : State) (f : Nat), f < 2 ^ s.straps.freqW →
    exec (.fqEncCiv f) s = .next { s with result := .bytes (
      [bcd (digit f 1) (digit f 0), bcd (digit f 3) (digit f 2), bcd (digit f 5) (digit f 4),
       bcd (digit f 7) (digit f 6), bcd (digit f 9) (digit f 8)]) } ∧
    exec (.fqEncYae f) s = .next { s with result := .bytes (
      [bcd (digit (f / 10) 7) (digit (f / 10) 6), bcd (digit (f / 10) 5) (digit (f / 10) 4),
       bcd (digit (f / 10) 3) (digit (f / 10) 2), bcd (digit (f / 10) 1) (digit (f / 10) 0)]) } ∧
    exec (.fqEncKw f) s = .next { s with result := .bytes (
      [0x30 + byte (digit f 10), 0x30 + byte (digit f 9), 0x30 + byte (digit f 8), 0x30 + byte (digit f 7),
       0x30 + byte (digit f 6), 0x30 + byte (digit f 5), 0x30 + byte (digit f 4), 0x30 + byte (digit f 3),
       0x30 + byte (digit f 2), 0x30 + byte (digit f 1), 0x30 + byte (digit f 0)]) } ∧
    (encodeBytes (.fqEncCiv f)).head? = some 0x20 ∧ (encodeBytes (.fqEncYae f)).head? = some 0x22 ∧
    (encodeBytes (.fqEncKw f)).head? = some 0x24

/-- R161, R163, R165: the three frequency decoders on decimal digits, for a unit whose frequencies hold eleven digits:
the weighted sum of the digits.  On anything else they are refused (the spec's decision D23). -/
def Obligations.FrequencyDecodersSumTheirDigits : Prop :=
  ∀ s : State, 37 ≤ s.straps.freqW →
    (∀ b0 b1 b2 b3 b4 : Byte, [b0, b1, b2, b3, b4].all isBcd = true →
      exec (.fqDecCiv [b0, b1, b2, b3, b4]) s = .next { s with result := .frequency (
        bcdValue b0 + bcdValue b1 * 100 + bcdValue b2 * 100 ^ 2 + bcdValue b3 * 100 ^ 3 + bcdValue b4 * 100 ^ 4) }) ∧
    (∀ p1 p2 p3 p4 : Byte, [p1, p2, p3, p4].all isBcd = true →
      exec (.fqDecYae [p1, p2, p3, p4]) s = .next { s with result := .frequency (
        (((bcdValue p1 * 100 + bcdValue p2) * 100 + bcdValue p3) * 100 + bcdValue p4) * 10) }) ∧
    (∀ cs : List Byte, cs.length = 11 → cs.all isAscDigit = true →
      exec (.fqDecKw cs) s = .next { s with result := .frequency (
        ((List.range 11).map fun k => ((cs.getD k 0).toNat - 0x30) * 10 ^ (10 - k)).sum) }) ∧
    (∀ bs : List Byte, ¬ (bs.length = 5 ∧ bs.all isBcd = true) → exec (.fqDecCiv bs) s = .refused .notDecimal) ∧
    (∀ bs : List Byte, ¬ (bs.length = 4 ∧ bs.all isBcd = true) → exec (.fqDecYae bs) s = .refused .notDecimal) ∧
    (∀ cs : List Byte, ¬ (cs.length = 11 ∧ cs.all isAscDigit = true) → exec (.fqDecKw cs) s = .refused .notDecimal)

/-- R167: the round trips: decode of encode is the frequency (for Yaesu with its last digit dropped) on every frequency in
range, and encode of decode is the field, on a unit whose frequencies hold eleven digits. -/
def Obligations.FrequencyRoundTrips : Prop :=
  ∀ s : State, 37 ≤ s.straps.freqW →
    (∀ f : Nat, f ≤ 9999999999 → exec (.fqDecCiv (encCiv f)) s = .next { s with result := .frequency f }) ∧
    (∀ f : Nat, f ≤ 99999999999 → exec (.fqDecKw (encKw f)) s = .next { s with result := .frequency f }) ∧
    (∀ f : Nat, f ≤ 999999999 → exec (.fqDecYae (encYae f)) s = .next { s with result := .frequency (f - f % 10) }) ∧
    (∀ (bs : List Byte) (f : Nat), decCiv bs = some f → encCiv f = bs) ∧
    (∀ (bs : List Byte) (f : Nat), decYae bs = some f → encYae f = bs) ∧
    (∀ (bs : List Byte) (f : Nat), decKw bs = some f → encKw f = bs)

/-- R166: digits above a field's width are dropped, and the field's length does not change (the spec's decision D9). -/
def Obligations.OutOfRangeFrequenciesWrap : Prop :=
  ∀ f : Nat,
    encCiv f = encCiv (f % 10 ^ 10) ∧ encYae f = encYae (f / 10 % 10 ^ 8 * 10) ∧ encKw f = encKw (f % 10 ^ 11) ∧
    (encCiv f).length = 5 ∧ (encYae f).length = 4 ∧ (encKw f).length = 11

/-- R180, R181, R183, R185: the mode encoders answer for every mode, and under every admissible table obey K1 to K4, I1 to
I6, Y1 and Y2: a mode without an entry takes the code of USB, and the seven Icom codes are distinct, RTTY-reverse (FSK_R)
among them.  That FMW, CW_R, TUNE, DIG and UNKNOWN are the modes without an Icom entry is R183's own reading (assumption
log 12); that an unmapped Yaesu mode takes the code of USB is the spec's decision D11.  Nothing but the result changes. -/
def Obligations.ModeEncodersObeyTheTables : Prop :=
  ∀ s : State, strapsLegal s.straps = true →
    (∃ kw : RadioMode → Fin 10,
      (∀ m, exec (.mdEncKw m) s = .next { s with result := .digit (kw m) }) ∧
      kw .usb = 2 ∧ kw .rtty = kw .fsk ∧ kw .dataUsb = kw .usb ∧ kw .dataLsb = kw .lsb ∧
      ∀ m, isMapped s.straps.kwModeCode m = false → kw m = kw .usb) ∧
    (∃ civ : RadioMode → Byte,
      (∀ m, exec (.mdEncCiv m) s = .next { s with result := .code (civ m) }) ∧
      civ .usb = 0x01 ∧
      [civ .lsb, civ .usb, civ .am, civ .cw, civ .fm, civ .rtty, civ .fskR].Nodup ∧
      civ .rtty = civ .fsk ∧ civ .dataLsb = civ .lsb ∧ civ .dataUsb = civ .usb ∧
      civ .fmw = 0x01 ∧ civ .cwR = 0x01 ∧ civ .tune = 0x01 ∧ civ .dig = 0x01 ∧ civ .unknown = 0x01 ∧
      ∀ m, isMapped s.straps.civModeCode m = false → civ m = civ .usb) ∧
    ∃ yae : RadioMode → Byte,
      (∀ m, exec (.mdEncYae m) s = .next { s with result := .code (yae m) }) ∧
      yae .fsk = yae .dig ∧ yae .rtty = yae .dig ∧ yae .dataUsb = yae .dig ∧ yae .dataLsb = yae .dig ∧
      ∀ m, isMapped s.straps.yaeModeCode m = false → yae m = yae .usb

/-- R180, R182, R184, R186: the mode decoders answer for every code, and under every admissible table undo the encoders up
to the documented collapses.  Kenwood: FSK, USB and LSB come back (K5, K6), no code comes back as RTTY, DATA_USB or
DATA_LSB (read from K3 and K5: assumption log 12), a code without an entry is USB (K7).  Icom: the five direct modes, RTTY and FSK_R come back, FSK as RTTY (I7 to
I9), any other byte is USB (I10).  Yaesu: the modes on the digital code come back as one mode; that a byte without an
entry, and so an unmapped mode, comes back as USB is the spec's decision D11. -/
def Obligations.ModeDecodersUndoTheEncoders : Prop :=
  ∀ s : State, strapsLegal s.straps = true →
    (∃ (dec : Fin 10 → RadioMode),
      (∀ d, exec (.mdDecKw d) s = .next { s with result := .mode (dec d) }) ∧
      dec (encodeMode s.straps.kwModeCode .fsk) = .fsk ∧ dec (encodeMode s.straps.kwModeCode .usb) = .usb ∧
      dec (encodeMode s.straps.kwModeCode .lsb) = .lsb ∧
      (∀ d, dec d ≠ .rtty ∧ dec d ≠ .dataUsb ∧ dec d ≠ .dataLsb) ∧
      (∀ d, s.straps.kwModeRev.lookup d = none → dec d = .usb) ∧
      ∀ m, dec (encodeMode s.straps.kwModeCode m) = m ∨
        (m, dec (encodeMode s.straps.kwModeCode m)) ∈
          ([(.rtty, .fsk), (.dataUsb, .usb), (.dataLsb, .lsb)] : List (RadioMode × RadioMode)) ∨
        (isMapped s.straps.kwModeCode m = false ∧ dec (encodeMode s.straps.kwModeCode m) = .usb)) ∧
    (∃ (dec : Byte → RadioMode),
      (∀ d, exec (.mdDecCiv d) s = .next { s with result := .mode (dec d) }) ∧
      (∀ m ∈ ([.lsb, .usb, .am, .cw, .fm, .rtty, .fskR] : List RadioMode),
        dec (encodeMode s.straps.civModeCode m) = m) ∧
      dec (encodeMode s.straps.civModeCode .fsk) = .rtty ∧
      (∀ d, d ∉ ([.lsb, .usb, .am, .cw, .fm, .rtty, .fskR] : List RadioMode).map (encodeMode s.straps.civModeCode) →
        dec d = .usb) ∧
      ∀ m, dec (encodeMode s.straps.civModeCode m) = m ∨
        (m, dec (encodeMode s.straps.civModeCode m)) ∈
          ([(.fsk, .rtty), (.dataLsb, .lsb), (.dataUsb, .usb)] : List (RadioMode × RadioMode)) ∨
        (isMapped s.straps.civModeCode m = false ∧ dec (encodeMode s.straps.civModeCode m) = .usb)) ∧
    ∃ (dec : Byte → RadioMode),
      (∀ d, exec (.mdDecYae d) s = .next { s with result := .mode (dec d) }) ∧
      (∀ d, s.straps.yaeModeRev.lookup d = none → dec d = .usb) ∧
      ∀ m, dec (encodeMode s.straps.yaeModeCode m) = m ∨
        (m ∈ ([.dig, .fsk, .rtty, .dataUsb, .dataLsb] : List RadioMode) ∧
          dec (encodeMode s.straps.yaeModeCode m) = dec (encodeMode s.straps.yaeModeCode .dig)) ∨
        (isMapped s.straps.yaeModeCode m = false ∧ dec (encodeMode s.straps.yaeModeCode m) = .usb)

/-- R187: the round trips under the default tables, in the order LSB to UNKNOWN of R23 (the defaults are the spec's
decision D11). -/
def Obligations.DefaultTablesRoundTrip : Prop :=
  allModes.map (roundTrip defaultStraps.kwModeCode defaultStraps.kwModeRev) =
    [.lsb, .usb, .cw, .fm, .usb, .am, .fsk, .fsk, .cwR, .tune, .fskR, .usb, .lsb, .usb, .usb] ∧
  allModes.map (roundTrip defaultStraps.civModeCode defaultStraps.civModeRev) =
    [.lsb, .usb, .cw, .fm, .usb, .am, .rtty, .rtty, .usb, .usb, .fskR, .usb, .lsb, .usb, .usb] ∧
  allModes.map (roundTrip defaultStraps.yaeModeCode defaultStraps.yaeModeRev) =
    [.lsb, .usb, .cw, .fm, .fmw, .am, .dig, .dig, .cwR, .usb, .usb, .dig, .dig, .dig, .usb]

/-! ## The resampler -/

/-- R40, R260: RS.CONSTRUCT within the bounds builds a resampler with the `N` coefficients `COEFF`, a zero history and
position 0, and changes nothing else; outside them it is refused (the spec's decision D7).  `COEFF` is a vector that the
parameter holds for this ratio and taps, of finite values whose sum is 1 up to rounding (the bound is assumption log 12),
or where it holds none the reference vector (the spec's decision D5, assumption log 11). -/
def Obligations.ConstructBuildsAZeroedResampler : Prop :=
  ∀ (s : State) (r t : Nat), strapsLegal s.straps = true →
    (1 ≤ r ∧ 1 ≤ t ∧ 2 ≤ r * t →
      exec (.rsConstruct r t) s = .next { s with
        rsmp := ⟨r, t, coeffFor s.straps r t, List.replicate (r * t) fzero, 0⟩
        result := .void } ∧
      (coeffFor s.straps r t).length = r * t ∧
      ((∃ e ∈ s.straps.coeffTable, e.r = r ∧ e.t = t ∧ coeffFor s.straps r t = e.values ∧
          coeffLegal s.straps.fp r t e.values = true) ∨
        ((∀ e ∈ s.straps.coeffTable, ¬ (e.r = r ∧ e.t = t)) ∧
          coeffFor s.straps r t = coeffReference s.straps.fp r t))) ∧
    (¬ (1 ≤ r ∧ 1 ≤ t ∧ 2 ≤ r * t) → exec (.rsConstruct r t) s = .refused .badGeometry)

/-- R45, R261, R263, R267: RS.DECIMATE pushes every sample in order and outputs the filter's value after every `R`th sample
of the call: `floor(L / R)` outputs, output `j` right after the push of sample `R*j + R - 1`; nothing but the history, the
position and the result changes, and the position moves on by `L` modulo `N`. -/
def Obligations.DecimatePushesAndOutputsEveryRth : Prop :=
  ∀ (s : State) (input : List Sample), storageLegal s.rsmp → input.all (sampleFits s.straps.fp) = true →
    exec (.rsDecimate input) s = .next { s with
      rsmp := input.foldl firPush s.rsmp
      result := .samples ((List.range (input.length / s.rsmp.r)).map fun j =>
        fir (fpArith s.straps.fp) ((input.take (s.rsmp.r * (j + 1))).foldl firPush s.rsmp)) } ∧
    (input.foldl firPush s.rsmp).pos = (s.rsmp.pos + input.length) % totalTaps s.rsmp ∧
    (input.foldl firPush s.rsmp).coeff = s.rsmp.coeff

/-- R264, R267: RS.INTERP pushes, for every sample, the sample times `R` and then `R - 1` zeros, and outputs the filter's
value after every push: `L * R` outputs; nothing but the history, the position and the result changes. -/
def Obligations.InterpolateStuffsZerosAndOutputsEach : Prop :=
  ∀ (s : State) (input : List Sample), storageLegal s.rsmp → input.all (sampleFits s.straps.fp) = true →
    ∃ pushed : List Sample,
      pushed = input.flatMap (fun x =>
        fmul s.straps.fp x (fofint s.straps.fp s.rsmp.r) :: List.replicate (s.rsmp.r - 1) fzero) ∧
      exec (.rsInterp input) s = .next { s with
        rsmp := pushed.foldl firPush s.rsmp
        result := .samples ((List.range (input.length * s.rsmp.r)).map fun j =>
          fir (fpArith s.straps.fp) ((pushed.take (j + 1)).foldl firPush s.rsmp)) } ∧
      (pushed.foldl firPush s.rsmp).pos = (s.rsmp.pos + input.length * s.rsmp.r) % totalTaps s.rsmp

/-- R265: RS.RESET zeroes the history and the position and changes nothing else: the resampler is then the newly built one
with the same ratio, taps and coefficients; a second RS.RESET changes nothing. -/
def Obligations.ResetZeroesHistoryAndPosition : Prop :=
  (∀ s : State, exec .rsReset s = .next { s with
    rsmp := ⟨s.rsmp.r, s.rsmp.t, s.rsmp.coeff, List.replicate (s.rsmp.r * s.rsmp.t) fzero, 0⟩
    result := .void }) ∧
  ∀ s t : State, exec .rsReset s = .next t → exec .rsReset t = .next t

/-- R265: after RS.RESET a zero input gives zero outputs from the first on, whatever the state before, for finite
coefficients (C6: there is no transient): in a decimation, and in an interpolation whose ratio is a finite value of the
format.  That a product with zero is a zero is IEEE arithmetic (the spec's decision D3, assumption log 10), the sign of
the zero its decision D4. -/
def Obligations.ResetThenZeroInputGivesZeroOutput : Prop :=
  ∀ (s t : State) (n : Nat), storageLegal s.rsmp → (∀ c ∈ s.rsmp.coeff, isFinite s.straps.fp c = true) →
    exec .rsReset s = .next t →
    (∃ t', exec (.rsDecimate (List.replicate n fzero)) t = .next t' ∧
      t'.result = .samples (List.replicate (n / s.rsmp.r) fzero)) ∧
    (isFinite s.straps.fp (fofint s.straps.fp s.rsmp.r) = true →
      ∃ t', exec (.rsInterp (List.replicate n fzero)) t = .next t' ∧
        t'.result = .samples (List.replicate (n * s.rsmp.r) fzero))

/-- R261, R262, R268 (b): after `N` pushes the filter's value is the inner product of the coefficients with those `N` values,
oldest first, added in ascending order from zero: no older value has any part in it.  The direction and the order are the
spec's decisions D6 and D4. -/
def Obligations.FilterReadsTheLastNValuesOldestFirst : Prop :=
  ∀ (fmt : FpFormat) (u : FirState Sample) (values : List Sample), storageLegal u → values.length = totalTaps u →
    fir (fpArith fmt) (values.foldl firPush u) =
      (List.zipWith (fmul fmt) u.coeff values).foldl (fadd fmt) fzero

/-- R268 (e): an interpolation split into two calls gives the same outputs and the same resampler as one call; a decimation
does where the first piece has a length that is a multiple of `R`. -/
def Obligations.SplittingCallsAtTheGridChangesNothing : Prop :=
  ∀ (s t : State) (xs ys : List Sample), storageLegal s.rsmp →
    (exec (.rsInterp (xs ++ ys)) s = .next t →
      ∃ t1 t2 out1 out2, exec (.rsInterp xs) s = .next t1 ∧ exec (.rsInterp ys) t1 = .next t2 ∧
        t1.result = .samples out1 ∧ t2.result = .samples out2 ∧ t.result = .samples (out1 ++ out2) ∧ t.rsmp = t2.rsmp) ∧
    (xs.length % s.rsmp.r = 0 → exec (.rsDecimate (xs ++ ys)) s = .next t →
      ∃ t1 t2 out1 out2, exec (.rsDecimate xs) s = .next t1 ∧ exec (.rsDecimate ys) t1 = .next t2 ∧
        t1.result = .samples out1 ∧ t2.result = .samples out2 ∧ t.result = .samples (out1 ++ out2) ∧ t.rsmp = t2.rsmp)

/-- R266, R333: a NaN anywhere in the history makes the filter's value a NaN (one canonical NaN: U15).
The arithmetic of NaNs is the spec's decision D3. -/
def Obligations.NanInTheHistoryReachesTheOutput : Prop :=
  ∀ (fmt : FpFormat) (u : FirState Sample) (x : Sample), storageLegal u → x ∈ u.hist → fpUnpack fmt x = .nan →
    fir (fpArith fmt) u = fpNan fmt

/-- R268 (a): in exact arithmetic the outputs are linear in the inputs and the initial history, for both operations. -/
def Obligations.ExactFilterIsLinear : Prop :=
  ∀ (a b : ℚ) (r t pos : Nat) (coeff h h' xs ys : List ℚ),
    h.length = r * t → h'.length = r * t → coeff.length = r * t → xs.length = ys.length →
    let mix := List.zipWith fun x y : ℚ => a * x + b * y
    let unit := fun hist : List ℚ => (⟨r, t, coeff, hist, pos⟩ : FirState ℚ)
    (decimate exactArith (unit (mix h h')) (mix xs ys)).2 =
      mix (decimate exactArith (unit h) xs).2 (decimate exactArith (unit h') ys).2 ∧
    (interpolate exactArith (unit (mix h h')) (mix xs ys)).2 =
      mix (interpolate exactArith (unit h) xs).2 (interpolate exactArith (unit h') ys).2

/-- R268 (d): in exact arithmetic a constant input `x` gives, once `N` samples have been pushed, `x` times the sum of the
coefficients. -/
def Obligations.ExactDcGainIsTheCoefficientSum : Prop :=
  ∀ (u : FirState ℚ) (x : ℚ) (n : Nat), storageLegal u → totalTaps u ≤ n →
    fir exactArith ((List.replicate n x).foldl firPush u) = x * u.coeff.sum

/-- R10, R266: `fadd` of two finite values whose exact sum is not beyond the largest finite value is finite, no finite value
of the format is nearer to that sum, and where another is as near the last bit is even: round to nearest, ties to even
(the format and the rounding are the spec's decision D3, assumption log 10). -/
def Obligations.AdditionRoundsToNearest : Prop :=
  ∀ (fmt : FpFormat) (x y w : Sample),
    isFinite fmt x = true → isFinite fmt y = true → isFinite fmt w = true →
    (unitsOf fmt x + unitsOf fmt y).natAbs ≤ (2 ^ fpPrec fmt - 1) * 2 ^ (fpExpMax fmt - 2) →
    isFinite fmt (fadd fmt x y) = true ∧
      (unitsOf fmt (fadd fmt x y) - (unitsOf fmt x + unitsOf fmt y)).natAbs ≤
        (unitsOf fmt w - (unitsOf fmt x + unitsOf fmt y)).natAbs ∧
      (unitsOf fmt w ≠ unitsOf fmt (fadd fmt x y) →
        (unitsOf fmt (fadd fmt x y) - (unitsOf fmt x + unitsOf fmt y)).natAbs =
          (unitsOf fmt w - (unitsOf fmt x + unitsOf fmt y)).natAbs →
        (fadd fmt x y).toNat % 2 = 0)

/-- R10, R266: the same for `fmul`: a product of units is in units of the square of the unit, so a value in units is scaled
by `2 ^ fpScale` to stand beside it (the format and the rounding are the spec's decision D3, assumption log 10). -/
def Obligations.MultiplicationRoundsToNearest : Prop :=
  ∀ (fmt : FpFormat) (x y w : Sample),
    isFinite fmt x = true → isFinite fmt y = true → isFinite fmt w = true →
    (unitsOf fmt x * unitsOf fmt y).natAbs ≤ (2 ^ fpPrec fmt - 1) * 2 ^ (fpExpMax fmt - 2) * 2 ^ fpScale fmt →
    isFinite fmt (fmul fmt x y) = true ∧
      (unitsOf fmt (fmul fmt x y) * 2 ^ fpScale fmt - unitsOf fmt x * unitsOf fmt y).natAbs ≤
        (unitsOf fmt w * 2 ^ fpScale fmt - unitsOf fmt x * unitsOf fmt y).natAbs ∧
      (unitsOf fmt w ≠ unitsOf fmt (fmul fmt x y) →
        (unitsOf fmt (fmul fmt x y) * 2 ^ fpScale fmt - unitsOf fmt x * unitsOf fmt y).natAbs =
          (unitsOf fmt w * 2 ^ fpScale fmt - unitsOf fmt x * unitsOf fmt y).natAbs →
        (fmul fmt x y).toNat % 2 = 0)
end

