-- ==== Sys2Proof/Laws/State.lean ====
section
/-! SUPPORT. The fields of State after each named update: one lemma per field per update, true by definition. -/

namespace Sys2Proof.Machine

@[simp] theorem setReady_straps (s : State) (b : Bool) : (s.setReady b).straps = s.straps := rfl
@[simp] theorem setReady_chan (s : State) (b : Bool) : (s.setReady b).cat.chan = s.cat.chan := rfl
@[simp] theorem setReady_chanSet (s : State) (b : Bool) : (s.setReady b).cat.chanSet = s.cat.chanSet := rfl
@[simp] theorem setReady_tx (s : State) (b : Bool) : (s.setReady b).cat.tx = s.cat.tx := rfl
@[simp] theorem setReady_ready (s : State) (b : Bool) : (s.setReady b).cat.ready = b := rfl
@[simp] theorem setReady_rxbuf (s : State) (b : Bool) : (s.setReady b).cat.rxbuf = s.cat.rxbuf := rfl
@[simp] theorem setReady_sendCb (s : State) (b : Bool) : (s.setReady b).cat.sendCb = s.cat.sendCb := rfl
@[simp] theorem setReady_ackCb (s : State) (b : Bool) : (s.setReady b).cat.ackCb = s.cat.ackCb := rfl
@[simp] theorem setReady_rsmp (s : State) (b : Bool) : (s.setReady b).rsmp = s.rsmp := rfl
@[simp] theorem setReady_events (s : State) (b : Bool) : (s.setReady b).events = s.events := rfl
@[simp] theorem setReady_result (s : State) (b : Bool) : (s.setReady b).result = s.result := rfl
@[simp] theorem setReady_agenda (s : State) (b : Bool) : (s.setReady b).agenda = s.agenda := rfl
@[simp] theorem setReady_freeIndex (s : State) (b : Bool) : (s.setReady b).freeIndex = s.freeIndex := rfl

@[simp] theorem setTx_straps (s : State) (b : Bool) : (s.setTx b).straps = s.straps := rfl
@[simp] theorem setTx_chan (s : State) (b : Bool) : (s.setTx b).cat.chan = s.cat.chan := rfl
@[simp] theorem setTx_chanSet (s : State) (b : Bool) : (s.setTx b).cat.chanSet = s.cat.chanSet := rfl
@[simp] theorem setTx_tx (s : State) (b : Bool) : (s.setTx b).cat.tx = b := rfl
@[simp] theorem setTx_ready (s : State) (b : Bool) : (s.setTx b).cat.ready = s.cat.ready := rfl
@[simp] theorem setTx_rxbuf (s : State) (b : Bool) : (s.setTx b).cat.rxbuf = s.cat.rxbuf := rfl
@[simp] theorem setTx_sendCb (s : State) (b : Bool) : (s.setTx b).cat.sendCb = s.cat.sendCb := rfl
@[simp] theorem setTx_ackCb (s : State) (b : Bool) : (s.setTx b).cat.ackCb = s.cat.ackCb := rfl
@[simp] theorem setTx_rsmp (s : State) (b : Bool) : (s.setTx b).rsmp = s.rsmp := rfl
@[simp] theorem setTx_events (s : State) (b : Bool) : (s.setTx b).events = s.events := rfl
@[simp] theorem setTx_result (s : State) (b : Bool) : (s.setTx b).result = s.result := rfl
@[simp] theorem setTx_agenda (s : State) (b : Bool) : (s.setTx b).agenda = s.agenda := rfl
@[simp] theorem setTx_freeIndex (s : State) (b : Bool) : (s.setTx b).freeIndex = s.freeIndex := rfl

@[simp] theorem setSendCb_straps (s : State) (k : Nat) : (s.setSendCb k).straps = s.straps := rfl
@[simp] theorem setSendCb_chan (s : State) (k : Nat) : (s.setSendCb k).cat.chan = s.cat.chan := rfl
@[simp] theorem setSendCb_chanSet (s : State) (k : Nat) : (s.setSendCb k).cat.chanSet = s.cat.chanSet := rfl
@[simp] theorem setSendCb_tx (s : State) (k : Nat) : (s.setSendCb k).cat.tx = s.cat.tx := rfl
@[simp] theorem setSendCb_ready (s : State) (k : Nat) : (s.setSendCb k).cat.ready = s.cat.ready := rfl
@[simp] theorem setSendCb_rxbuf (s : State) (k : Nat) : (s.setSendCb k).cat.rxbuf = s.cat.rxbuf := rfl
@[simp] theorem setSendCb_sendCb (s : State) (k : Nat) : (s.setSendCb k).cat.sendCb = some k := rfl
@[simp] theorem setSendCb_ackCb (s : State) (k : Nat) : (s.setSendCb k).cat.ackCb = s.cat.ackCb := rfl
@[simp] theorem setSendCb_rsmp (s : State) (k : Nat) : (s.setSendCb k).rsmp = s.rsmp := rfl
@[simp] theorem setSendCb_events (s : State) (k : Nat) : (s.setSendCb k).events = s.events := rfl
@[simp] theorem setSendCb_result (s : State) (k : Nat) : (s.setSendCb k).result = s.result := rfl
@[simp] theorem setSendCb_agenda (s : State) (k : Nat) : (s.setSendCb k).agenda = s.agenda := rfl
@[simp] theorem setSendCb_freeIndex (s : State) (k : Nat) : (s.setSendCb k).freeIndex = s.freeIndex := rfl

@[simp] theorem setAckCb_straps (s : State) (k : Nat) : (s.setAckCb k).straps = s.straps := rfl
@[simp] theorem setAckCb_chan (s : State) (k : Nat) : (s.setAckCb k).cat.chan = s.cat.chan := rfl
@[simp] theorem setAckCb_chanSet (s : State) (k : Nat) : (s.setAckCb k).cat.chanSet = s.cat.chanSet := rfl
@[simp] theorem setAckCb_tx (s : State) (k : Nat) : (s.setAckCb k).cat.tx = s.cat.tx := rfl
@[simp] theorem setAckCb_ready (s : State) (k : Nat) : (s.setAckCb k).cat.ready = s.cat.ready := rfl
@[simp] theorem setAckCb_rxbuf (s : State) (k : Nat) : (s.setAckCb k).cat.rxbuf = s.cat.rxbuf := rfl
@[simp] theorem setAckCb_sendCb (s : State) (k : Nat) : (s.setAckCb k).cat.sendCb = s.cat.sendCb := rfl
@[simp] theorem setAckCb_ackCb (s : State) (k : Nat) : (s.setAckCb k).cat.ackCb = some k := rfl
@[simp] theorem setAckCb_rsmp (s : State) (k : Nat) : (s.setAckCb k).rsmp = s.rsmp := rfl
@[simp] theorem setAckCb_events (s : State) (k : Nat) : (s.setAckCb k).events = s.events := rfl
@[simp] theorem setAckCb_result (s : State) (k : Nat) : (s.setAckCb k).result = s.result := rfl
@[simp] theorem setAckCb_agenda (s : State) (k : Nat) : (s.setAckCb k).agenda = s.agenda := rfl
@[simp] theorem setAckCb_freeIndex (s : State) (k : Nat) : (s.setAckCb k).freeIndex = s.freeIndex := rfl

@[simp] theorem setChan_straps (s : State) (c : Channel) : (s.setChan c).straps = s.straps := rfl
@[simp] theorem setChan_chan (s : State) (c : Channel) : (s.setChan c).cat.chan = c := rfl
@[simp] theorem setChan_chanSet (s : State) (c : Channel) : (s.setChan c).cat.chanSet = true := rfl
@[simp] theorem setChan_tx (s : State) (c : Channel) : (s.setChan c).cat.tx = s.cat.tx := rfl
@[simp] theorem setChan_ready (s : State) (c : Channel) : (s.setChan c).cat.ready = s.cat.ready := rfl
@[simp] theorem setChan_rxbuf (s : State) (c : Channel) : (s.setChan c).cat.rxbuf = s.cat.rxbuf := rfl
@[simp] theorem setChan_sendCb (s : State) (c : Channel) : (s.setChan c).cat.sendCb = s.cat.sendCb := rfl
@[simp] theorem setChan_ackCb (s : State) (c : Channel) : (s.setChan c).cat.ackCb = s.cat.ackCb := rfl
@[simp] theorem setChan_rsmp (s : State) (c : Channel) : (s.setChan c).rsmp = s.rsmp := rfl
@[simp] theorem setChan_events (s : State) (c : Channel) : (s.setChan c).events = s.events := rfl
@[simp] theorem setChan_result (s : State) (c : Channel) : (s.setChan c).result = s.result := rfl
@[simp] theorem setChan_agenda (s : State) (c : Channel) : (s.setChan c).agenda = s.agenda := rfl
@[simp] theorem setChan_freeIndex (s : State) (c : Channel) : (s.setChan c).freeIndex = s.freeIndex := rfl

@[simp] theorem setRxbuf_straps (s : State) (bs : List Byte) : (s.setRxbuf bs).straps = s.straps := rfl
@[simp] theorem setRxbuf_chan (s : State) (bs : List Byte) : (s.setRxbuf bs).cat.chan = s.cat.chan := rfl
@[simp] theorem setRxbuf_chanSet (s : State) (bs : List Byte) : (s.setRxbuf bs).cat.chanSet = s.cat.chanSet := rfl
@[simp] theorem setRxbuf_tx (s : State) (bs : List Byte) : (s.setRxbuf bs).cat.tx = s.cat.tx := rfl
@[simp] theorem setRxbuf_ready (s : State) (bs : List Byte) : (s.setRxbuf bs).cat.ready = s.cat.ready := rfl
@[simp] theorem setRxbuf_rxbuf (s : State) (bs : List Byte) : (s.setRxbuf bs).cat.rxbuf = bs := rfl
@[simp] theorem setRxbuf_sendCb (s : State) (bs : List Byte) : (s.setRxbuf bs).cat.sendCb = s.cat.sendCb := rfl
@[simp] theorem setRxbuf_ackCb (s : State) (bs : List Byte) : (s.setRxbuf bs).cat.ackCb = s.cat.ackCb := rfl
@[simp] theorem setRxbuf_rsmp (s : State) (bs : List Byte) : (s.setRxbuf bs).rsmp = s.rsmp := rfl
@[simp] theorem setRxbuf_events (s : State) (bs : List Byte) : (s.setRxbuf bs).events = s.events := rfl
@[simp] theorem setRxbuf_result (s : State) (bs : List Byte) : (s.setRxbuf bs).result = s.result := rfl
@[simp] theorem setRxbuf_agenda (s : State) (bs : List Byte) : (s.setRxbuf bs).agenda = s.agenda := rfl
@[simp] theorem setRxbuf_freeIndex (s : State) (bs : List Byte) : (s.setRxbuf bs).freeIndex = s.freeIndex := rfl

@[simp] theorem setResult_straps (s : State) (r : Result) : (s.setResult r).straps = s.straps := rfl
@[simp] theorem setResult_cat (s : State) (r : Result) : (s.setResult r).cat = s.cat := rfl
@[simp] theorem setResult_rsmp (s : State) (r : Result) : (s.setResult r).rsmp = s.rsmp := rfl
@[simp] theorem setResult_events (s : State) (r : Result) : (s.setResult r).events = s.events := rfl
@[simp] theorem setResult_result (s : State) (r : Result) : (s.setResult r).result = r := rfl
@[simp] theorem setResult_agenda (s : State) (r : Result) : (s.setResult r).agenda = s.agenda := rfl
@[simp] theorem setResult_freeIndex (s : State) (r : Result) : (s.setResult r).freeIndex = s.freeIndex := rfl

@[simp] theorem logEvent_straps (s : State) (e : Event) : (s.logEvent e).straps = s.straps := rfl
@[simp] theorem logEvent_cat (s : State) (e : Event) : (s.logEvent e).cat = s.cat := rfl
@[simp] theorem logEvent_rsmp (s : State) (e : Event) : (s.logEvent e).rsmp = s.rsmp := rfl
@[simp] theorem logEvent_events (s : State) (e : Event) : (s.logEvent e).events = s.events ++ [e] := rfl
@[simp] theorem logEvent_result (s : State) (e : Event) : (s.logEvent e).result = s.result := rfl
@[simp] theorem logEvent_agenda (s : State) (e : Event) : (s.logEvent e).agenda = s.agenda := rfl
@[simp] theorem logEvent_freeIndex (s : State) (e : Event) : (s.logEvent e).freeIndex = s.freeIndex := rfl

@[simp] theorem setRsmp_straps (s : State) (u : FirState Sample) : (s.setRsmp u).straps = s.straps := rfl
@[simp] theorem setRsmp_cat (s : State) (u : FirState Sample) : (s.setRsmp u).cat = s.cat := rfl
@[simp] theorem setRsmp_rsmp (s : State) (u : FirState Sample) : (s.setRsmp u).rsmp = u := rfl
@[simp] theorem setRsmp_events (s : State) (u : FirState Sample) : (s.setRsmp u).events = s.events := rfl
@[simp] theorem setRsmp_result (s : State) (u : FirState Sample) : (s.setRsmp u).result = s.result := rfl
@[simp] theorem setRsmp_agenda (s : State) (u : FirState Sample) : (s.setRsmp u).agenda = s.agenda := rfl
@[simp] theorem setRsmp_freeIndex (s : State) (u : FirState Sample) : (s.setRsmp u).freeIndex = s.freeIndex := rfl

end Sys2Proof.Machine
end

