-- ==== Sys2Proof/Laws/Ops.lean ====
section
/-! SUPPORT. What each shared operation can do, said once: the provers cite these instead of unfolding the operations. -/

namespace Sys2Proof.Machine

/-- `emit` appends its outputs to the record and changes nothing else. -/
theorem emit_eq (s : State) (frame : Frame) : emit s frame = { s with events := s.events ++ emitEvents s frame } := by
  cases hc : s.cat.sendCb with
  | some sink => simp [emit, emitEvents, hc, State.logEvent]
  | none => cases hp : s.straps.serialPresent <;> simp [emit, emitEvents, hc, hp, State.logEvent]

/-- `ack` appends its outputs to the record and changes nothing else. -/
theorem ack_eq (s : State) : ack s = { s with events := s.events ++ ackEvents s } := by
  cases hc : s.cat.ackCb <;> simp [ack, ackEvents, hc, State.logEvent]

@[simp] theorem emit_straps (s : State) (f : Frame) : (emit s f).straps = s.straps := by rw [emit_eq]
@[simp] theorem emit_cat (s : State) (f : Frame) : (emit s f).cat = s.cat := by rw [emit_eq]
@[simp] theorem emit_rsmp (s : State) (f : Frame) : (emit s f).rsmp = s.rsmp := by rw [emit_eq]
@[simp] theorem emit_events (s : State) (f : Frame) : (emit s f).events = s.events ++ emitEvents s f := by rw [emit_eq]
@[simp] theorem emit_result (s : State) (f : Frame) : (emit s f).result = s.result := by rw [emit_eq]
@[simp] theorem emit_agenda (s : State) (f : Frame) : (emit s f).agenda = s.agenda := by rw [emit_eq]
@[simp] theorem emit_freeIndex (s : State) (f : Frame) : (emit s f).freeIndex = s.freeIndex := by rw [emit_eq]

@[simp] theorem ack_straps (s : State) : (ack s).straps = s.straps := by rw [ack_eq]
@[simp] theorem ack_cat (s : State) : (ack s).cat = s.cat := by rw [ack_eq]
@[simp] theorem ack_rsmp (s : State) : (ack s).rsmp = s.rsmp := by rw [ack_eq]
@[simp] theorem ack_events (s : State) : (ack s).events = s.events ++ ackEvents s := by rw [ack_eq]
@[simp] theorem ack_result (s : State) : (ack s).result = s.result := by rw [ack_eq]
@[simp] theorem ack_agenda (s : State) : (ack s).agenda = s.agenda := by rw [ack_eq]
@[simp] theorem ack_freeIndex (s : State) : (ack s).freeIndex = s.freeIndex := by rw [ack_eq]

/-- `emitEvents` depends only on the destinations. -/
theorem emitEvents_congr {s s' : State} (f : Frame) (hc : s'.cat.sendCb = s.cat.sendCb)
    (hp : s'.straps.serialPresent = s.straps.serialPresent) : emitEvents s' f = emitEvents s f := by
  simp only [emitEvents, hc, hp]

/-- `ackEvents` depends only on the registered callback. -/
theorem ackEvents_congr {s s' : State} (h : s'.cat.ackCb = s.cat.ackCb) : ackEvents s' = ackEvents s := by
  simp only [ackEvents, h]

/-- A gated emission is the emission when ready and nothing otherwise. -/
theorem emitIfReady_cases (s : State) (f : Frame) :
    (s.cat.ready = true ∧ emitIfReady s f = emit s f) ∨ (s.cat.ready = false ∧ emitIfReady s f = s) := by
  cases h : s.cat.ready <;> simp [emitIfReady, h]

/-- A gated emission changes nothing but the record of outputs. -/
theorem emitIfReady_eq (s : State) (f : Frame) :
    emitIfReady s f = { s with events := s.events ++ if s.cat.ready then emitEvents s f else [] } := by
  obtain ⟨h, e⟩ | ⟨h, e⟩ := emitIfReady_cases s f
  · simp [e, h, emit_eq]
  · simp [e, h]

/-- An operation ends in the next state that holds its result, and in nothing else. -/
theorem finish_next {s s' : State} {r : Result} : finish s r = .next s' ↔ s' = s.setResult r := by
  simp [finish, eq_comm]

/-- The guard where it stands: a clear of a buffer over the cap, or nothing. -/
theorem guardAt_cases (s : State) (place : GuardPlace) :
    (s.straps.rxGuard.place = place ∧ overCap s.straps s.cat.rxbuf.length = true ∧ guardAt s place = s.setRxbuf []) ∨
    ((s.straps.rxGuard.place ≠ place ∨ overCap s.straps s.cat.rxbuf.length = false) ∧ guardAt s place = s) := by
  unfold guardAt rxGuard rxClear
  by_cases hp : s.straps.rxGuard.place = place
  · cases hc : overCap s.straps s.cat.rxbuf.length <;> simp [hp]
  · simp [hp]

/-- The byte taken: appended, or lost with the whole buffer where the guard stands before the terminator test. -/
theorem rxTake_cases (s : State) (b : Byte) :
    (s.straps.rxGuard.place = .beforeTest ∧ overCap s.straps (s.cat.rxbuf.length + 1) = true ∧
      rxTake s b = s.setRxbuf []) ∨
    ((s.straps.rxGuard.place ≠ .beforeTest ∨ overCap s.straps (s.cat.rxbuf.length + 1) = false) ∧
      rxTake s b = s.setRxbuf (s.cat.rxbuf ++ [b])) := by
  obtain ⟨hp, hc, e⟩ | ⟨hc, e⟩ := guardAt_cases (rxAppend s b) .beforeTest
  · exact .inl ⟨hp, by simpa [rxAppend] using hc, e⟩
  · exact .inr ⟨by simpa [rxAppend] using hc, e⟩

/-- A byte that is no terminator: kept, unless a guard that stands in the byte's step clears the buffer. -/
theorem rxKeep_cases (s : State) (b : Byte) :
    (s.straps.rxGuard.place ≠ .callEnd ∧ overCap s.straps (s.cat.rxbuf.length + 1) = true ∧
      guardAt (rxTake s b) .afterTest = s.setRxbuf []) ∨
    ((s.straps.rxGuard.place = .callEnd ∨ overCap s.straps (s.cat.rxbuf.length + 1) = false) ∧
      guardAt (rxTake s b) .afterTest = s.setRxbuf (s.cat.rxbuf ++ [b])) := by
  obtain ⟨hp, hc, e⟩ | ⟨hc, e⟩ := rxTake_cases s b
  · left
    refine ⟨by simp [hp], hc, ?_⟩
    obtain ⟨hq, -, -⟩ | ⟨-, e'⟩ := guardAt_cases (rxTake s b) .afterTest
    · simp [e, hp] at hq
    · rw [e', e]
  · obtain ⟨hq, hd, e'⟩ | ⟨hd, e'⟩ := guardAt_cases (rxTake s b) .afterTest
    · left
      simp only [e, setRxbuf_straps, setRxbuf_rxbuf, List.length_append, List.length_singleton] at hq hd
      exact ⟨by simp [hq], hd, by rw [e', e]; rfl⟩
    · right
      simp only [e, setRxbuf_straps, setRxbuf_rxbuf, List.length_append, List.length_singleton] at hd
      refine ⟨?_, by rw [e', e]⟩
      cases hp : s.straps.rxGuard.place <;> simp_all

/-- The received byte's step of the ASCII parser: at ';' an acknowledge and an empty buffer, else the byte is kept unless
the guard clears the buffer. -/
theorem kwRxByte_cases (s : State) (b : Byte) :
    (b = kwTerm ∧ kwRxByte s b = (ack s).setRxbuf []) ∨
    (b ≠ kwTerm ∧ s.straps.rxGuard.place ≠ .callEnd ∧ overCap s.straps (s.cat.rxbuf.length + 1) = true ∧
      kwRxByte s b = s.setRxbuf []) ∨
    (b ≠ kwTerm ∧ (s.straps.rxGuard.place = .callEnd ∨ overCap s.straps (s.cat.rxbuf.length + 1) = false) ∧
      kwRxByte s b = s.setRxbuf (s.cat.rxbuf ++ [b])) := by
  unfold kwRxByte
  by_cases hb : b = kwTerm
  · subst hb
    left
    obtain ⟨-, -, e⟩ | ⟨-, e⟩ := rxTake_cases s kwTerm <;> simp [e, rxClear, ack_eq, State.setRxbuf, ackEvents]
  · right
    simpa only [hb, if_false, ne_eq, not_false_eq_true, true_and] using rxKeep_cases s b

/-- The received byte's step of the CI-V parser: at the end marker an acknowledge if the buffer has the form (and the guard
has not just cleared it), and an empty buffer in every case; else the byte is kept unless the guard clears the buffer. -/
theorem civRxByte_cases (s : State) (b : Byte) :
    (b = civEom ∧ civAcknowledges (s.cat.rxbuf ++ [civEom]) = true ∧
      (s.straps.rxGuard.place ≠ .beforeTest ∨ overCap s.straps (s.cat.rxbuf.length + 1) = false) ∧
      civRxByte s b = (ack s).setRxbuf []) ∨
    (b = civEom ∧ (civAcknowledges (s.cat.rxbuf ++ [civEom]) = false ∨
        s.straps.rxGuard.place = .beforeTest ∧ overCap s.straps (s.cat.rxbuf.length + 1) = true) ∧
      civRxByte s b = s.setRxbuf []) ∨
    (b ≠ civEom ∧ s.straps.rxGuard.place ≠ .callEnd ∧ overCap s.straps (s.cat.rxbuf.length + 1) = true ∧
      civRxByte s b = s.setRxbuf []) ∨
    (b ≠ civEom ∧ (s.straps.rxGuard.place = .callEnd ∨ overCap s.straps (s.cat.rxbuf.length + 1) = false) ∧
      civRxByte s b = s.setRxbuf (s.cat.rxbuf ++ [b])) := by
  by_cases hb : b = civEom
  · subst hb
    obtain ⟨hp, hc, e⟩ | ⟨hc, e⟩ := rxTake_cases s civEom
    · right; left
      exact ⟨rfl, .inr ⟨hp, hc⟩, by simp [civRxByte, e, civAcknowledges, rxClear, State.setRxbuf]⟩
    · cases ha : civAcknowledges (s.cat.rxbuf ++ [civEom])
      · right; left
        exact ⟨rfl, .inl rfl, by simp [civRxByte, e, ha, rxClear, State.setRxbuf]⟩
      · left
        exact ⟨rfl, rfl, hc, by simp [civRxByte, e, ha, rxClear, ack_eq, State.setRxbuf, ackEvents]⟩
  · right; right
    simpa only [civRxByte, hb, if_false, ne_eq, not_false_eq_true, true_and] using rxKeep_cases s b

/-- What a reception may change: the outputs, by acknowledge events only, and the receive buffer. -/
def ReceivesFrom (s s' : State) : Prop :=
  ∃ n buf, s' = { s with events := s.events ++ (List.replicate n (ackEvents s)).flatten, cat := { s.cat with rxbuf := buf } }

theorem ReceivesFrom.refl (s : State) : ReceivesFrom s s := ⟨0, s.cat.rxbuf, by simp⟩

theorem ReceivesFrom.trans {s s' s'' : State} (h : ReceivesFrom s s') (h' : ReceivesFrom s' s'') : ReceivesFrom s s'' := by
  obtain ⟨n, buf, rfl⟩ := h
  obtain ⟨n', buf', rfl⟩ := h'
  refine ⟨n + n', buf', ?_⟩
  rw [List.replicate_add, List.flatten_append, ← List.append_assoc]
  rfl

theorem kwRxByte_receives (s : State) (b : Byte) : ReceivesFrom s (kwRxByte s b) := by
  obtain ⟨-, h⟩ | ⟨-, -, -, h⟩ | ⟨-, -, h⟩ := kwRxByte_cases s b
  · exact ⟨1, [], by simp [h, ack_eq, State.setRxbuf]⟩
  · exact ⟨0, [], by simp [h, State.setRxbuf]⟩
  · exact ⟨0, s.cat.rxbuf ++ [b], by simp [h, State.setRxbuf]⟩

theorem civRxByte_receives (s : State) (b : Byte) : ReceivesFrom s (civRxByte s b) := by
  obtain ⟨-, -, -, h⟩ | ⟨-, -, h⟩ | ⟨-, -, -, h⟩ | ⟨-, -, h⟩ := civRxByte_cases s b
  · exact ⟨1, [], by simp [h, ack_eq, State.setRxbuf]⟩
  · exact ⟨0, [], by simp [h, State.setRxbuf]⟩
  · exact ⟨0, [], by simp [h, State.setRxbuf]⟩
  · exact ⟨0, s.cat.rxbuf ++ [b], by simp [h, State.setRxbuf]⟩

theorem foldl_receives {f : State → Byte → State} (hf : ∀ s b, ReceivesFrom s (f s b)) (bytes : List Byte) :
    ∀ s, ReceivesFrom s (bytes.foldl f s) := by
  induction bytes with
  | nil => exact fun s => .refl s
  | cons b bs ih => exact fun s => (hf s b).trans (ih _)

theorem guardAt_receives (s : State) (place : GuardPlace) : ReceivesFrom s (guardAt s place) := by
  obtain ⟨-, -, h⟩ | ⟨-, h⟩ := guardAt_cases s place
  · exact ⟨0, [], by simp [h, State.setRxbuf]⟩
  · rw [h]
    exact .refl s

/-- A reception changes nothing but the outputs, by acknowledge events, and the receive buffer. -/
theorem receive_receives (s : State) (bytes : List Byte) : ReceivesFrom s (receive s bytes) := by
  unfold receive
  split
  · exact (foldl_receives kwRxByte_receives bytes s).trans (guardAt_receives _ _)
  · exact (foldl_receives kwRxByte_receives bytes s).trans (guardAt_receives _ _)
  · exact (foldl_receives civRxByte_receives bytes s).trans (guardAt_receives _ _)
  · split
    · exact .refl s
    · exact ⟨1, s.cat.rxbuf, by simp [ack_eq]⟩

/-- A frame operation that goes on: the variant has the frame, and the gated emission is all that happens. -/
theorem emitRow_next {s s' : State} {vs : List Variant} {f : Frame} :
    emitRow s vs f = .next s' ↔ s.straps.variant ∈ vs ∧ s' = (emitIfReady s f).setResult .void := by
  unfold emitRow
  split
  · rename_i h
    rw [finish_next]
    exact ⟨fun e => ⟨h, e⟩, fun e => e.2⟩
  · rename_i h
    exact ⟨fun e => (by cases e), fun e => absurd e.1 h⟩

/-- A CI-V frame operation that goes on: the variant is IcomCiv and the address is the strap. -/
theorem emitCivRow_next {s s' : State} {rr : Byte} {f : Frame} :
    emitCivRow s rr f = .next s' ↔
      s.straps.variant = .icomCiv ∧ rr = s.straps.civRadioAddr ∧ s' = (emitIfReady s f).setResult .void := by
  unfold emitCivRow
  split
  · rename_i h
    simp [h]
  · rename_i h
    rw [emitRow_next]
    simp only [not_and, not_not] at h
    constructor
    · rintro ⟨hv, rfl⟩
      simp only [List.mem_singleton] at hv
      exact ⟨hv, h hv, rfl⟩
    · rintro ⟨hv, -, rfl⟩
      exact ⟨by simp [hv], rfl⟩

/-- A frequency encoder that goes on. -/
theorem encodeFrequency_next {s s' : State} {f : Nat} {bs : List Byte} :
    encodeFrequency s f bs = .next s' ↔ freqFits s.straps f = true ∧ s' = s.setResult (.bytes bs) := by
  unfold encodeFrequency
  split
  · rename_i h
    rw [finish_next]
    exact ⟨fun e => ⟨h, e⟩, fun e => e.2⟩
  · rename_i h
    exact ⟨fun e => (by cases e), fun e => absurd e.1 h⟩

/-- A frequency decoder that goes on. -/
theorem decodeFrequency_next {s s' : State} {o : Option Nat} :
    decodeFrequency s o = .next s' ↔
      ∃ f, o = some f ∧ freqFits s.straps f = true ∧ s' = s.setResult (.frequency f) := by
  unfold decodeFrequency
  split
  · simp
  · rename_i f
    split
    · rename_i h
      rw [finish_next]
      exact ⟨fun e => ⟨f, rfl, h, e⟩, fun ⟨_, hf, _, e⟩ => by cases hf; exact e⟩
    · rename_i h
      exact ⟨fun e => (by cases e), fun ⟨_, hf, hw, _⟩ => by cases hf; exact absurd hw h⟩

/-- A resampler operation that goes on. -/
theorem resample_next {s s' : State} {xs : List Sample} {run : FirState Sample × List Sample} :
    resample s xs run = .next s' ↔
      xs.all (sampleFits s.straps.fp) = true ∧ s' = (s.setRsmp run.1).setResult (.samples run.2) := by
  unfold resample
  split
  · rename_i h
    rw [finish_next]
    exact ⟨fun e => ⟨h, e⟩, fun e => e.2⟩
  · rename_i h
    exact ⟨fun e => (by cases e), fun e => absurd e.1 h⟩

/-- A step with nothing on the agenda. -/
theorem step_idle {s : State} (h : s.agenda = []) : step s = .next s := by
  simp [step, fetch, h]

/-- A step whose request decodes to an operation runs that operation on the state without the request. -/
theorem step_op {s : State} {q : Request} {rest : List Request} {i : Instr} (h : s.agenda = q :: rest)
    (hd : decode s.straps.variant q = .ok i) : step s = exec i { s with agenda := rest } := by
  simp [step, fetch, h, hd]

/-- A step whose request decodes to no operation refuses. -/
theorem step_bad {s : State} {q : Request} {rest : List Request} {e : DecodeError} (h : s.agenda = q :: rest)
    (hd : decode s.straps.variant q = .error e) : step s = .refused (.undecodable e) := by
  simp [step, fetch, h, hd]

/-- What a step that goes on is: idle, or the operation of the next request. -/
theorem step_cases {s s' : State} (h : step s = .next s') :
    (s.agenda = [] ∧ s' = s) ∨
    ∃ q rest i, s.agenda = q :: rest ∧ decode s.straps.variant q = .ok i ∧ exec i { s with agenda := rest } = .next s' := by
  cases ha : s.agenda with
  | nil =>
    rw [step_idle ha] at h
    exact .inl ⟨rfl, by simpa using h.symm⟩
  | cons q rest =>
    cases hd : decode s.straps.variant q with
    | error e => simp [step_bad ha hd] at h
    | ok i => exact .inr ⟨q, rest, i, rfl, hd, by rw [← step_op ha hd]; exact h⟩

end Sys2Proof.Machine
end

