-- ==== Sys2Proof/Laws/PerInstr.lean ====
section
/-! SUPPORT. Per instruction: a well-formed operation's bytes are an instance of its row of the opcode table, `(s AND mask)
= match` (R109).  For the received rows, whose masks give only the shortest instance, the fixed leading bytes and the
last byte of the row's general condition (R104). -/

namespace Sys2Proof.Laws

open Sys2Proof.Machine

/-- What a row of the table fixes: mask and match of its leading bytes, its length in bytes where that is fixed, and its
last byte where that is fixed. -/
structure Row where
  mask : List Byte
  value : List Byte
  length : Option Nat
  last : Option Byte

/-- The bytes are an instance of the row. -/
def Row.has (r : Row) (bs : List Byte) : Prop :=
  List.zipWith (· &&& ·) bs r.mask = r.value ∧ (∀ n, r.length = some n → bs.length = n) ∧
    ∀ b, r.last = some b → bs.getLast? = some b

/-- The table's rows, transcribed from `spec/opcode_table.json`. -/
def rowOf : Instr → Row
  | .catInit => ⟨[0xFF], [0x00], none, none⟩
  | .catShutdown => ⟨[0xFF], [0x01], none, none⟩
  | .catStart => ⟨[0xFF], [0x02], none, none⟩
  | .catStop => ⟨[0xFF], [0x03], none, none⟩
  | .catSetch _ => ⟨[0xFF], [0x04], none, none⟩
  | .catGetch => ⟨[0xFF], [0x05], none, none⟩
  | .catSetptt _ => ⟨[0xFF], [0x06], none, none⟩
  | .catIstx => ⟨[0xFF], [0x07], none, none⟩
  | .catIsrdy => ⟨[0xFF], [0x08], none, none⟩
  | .catPortcfg => ⟨[0xFF], [0x09], none, none⟩
  | .catRegsend _ => ⟨[0xFF], [0x0A], none, none⟩
  | .catRegack _ => ⟨[0xFF], [0x0B], none, none⟩
  | .catResp _ => ⟨[0xFF], [0x0C], none, none⟩
  | .elSetpwr _ => ⟨[0xFF], [0x0D], none, none⟩
  | .elSetant _ => ⟨[0xFF], [0x0E], none, none⟩
  | .rsConstruct _ _ => ⟨[0xFF], [0x10], none, none⟩
  | .rsDecimate _ => ⟨[0xFF], [0x11], none, none⟩
  | .rsInterp _ => ⟨[0xFF], [0x12], none, none⟩
  | .rsReset => ⟨[0xFF], [0x13], none, none⟩
  | .fqEncCiv _ => ⟨[0xFF], [0x20], none, none⟩
  | .fqDecCiv _ => ⟨[0xFF], [0x21], none, none⟩
  | .fqEncYae _ => ⟨[0xFF], [0x22], none, none⟩
  | .fqDecYae _ => ⟨[0xFF], [0x23], none, none⟩
  | .fqEncKw _ => ⟨[0xFF], [0x24], none, none⟩
  | .fqDecKw _ => ⟨[0xFF], [0x25], none, none⟩
  | .mdEncKw _ => ⟨[0xFF], [0x28], none, none⟩
  | .mdDecKw _ => ⟨[0xFF], [0x29], none, none⟩
  | .mdEncCiv _ => ⟨[0xFF], [0x2A], none, none⟩
  | .mdDecCiv _ => ⟨[0xFF], [0x2B], none, none⟩
  | .mdEncYae _ => ⟨[0xFF], [0x2C], none, none⟩
  | .mdDecYae _ => ⟨[0xFF], [0x2D], none, none⟩
  | .kwFa _ => ⟨[0xFF, 0xFF, 0xF0, 0xF0, 0xF0, 0xF0, 0xF0, 0xF0, 0xF0, 0xF0, 0xF0, 0xF0, 0xF0, 0xFF], [0x46, 0x41, 0x30, 0x30, 0x30, 0x30, 0x30, 0x30, 0x30, 0x30, 0x30, 0x30, 0x30, 0x3B], some 14, none⟩
  | .kwMd _ => ⟨[0xFF, 0xFF, 0xF0, 0xFF], [0x4D, 0x44, 0x30, 0x3B], some 4, none⟩
  | .kwTx => ⟨[0xFF, 0xFF, 0xFF], [0x54, 0x58, 0x3B], some 3, none⟩
  | .kwRx => ⟨[0xFF, 0xFF, 0xFF], [0x52, 0x58, 0x3B], some 3, none⟩
  | .elPc _ => ⟨[0xFF, 0xFF, 0xF0, 0xF0, 0xF0, 0xFF], [0x50, 0x43, 0x30, 0x30, 0x30, 0x3B], some 6, none⟩
  | .elAn _ => ⟨[0xFF, 0xFF, 0xF0, 0xFF], [0x41, 0x4E, 0x30, 0x3B], some 4, none⟩
  | .civFreq _ _ => ⟨[0xFF, 0xFF, 0x00, 0xFF, 0xFF, 0x00, 0x00, 0x00, 0x00, 0x00, 0xFF], [0xFE, 0xFE, 0x00, 0xE0, 0x05, 0x00, 0x00, 0x00, 0x00, 0x00, 0xFD], some 11, none⟩
  | .civMode _ _ => ⟨[0xFF, 0xFF, 0x00, 0xFF, 0xFF, 0x00, 0xFF], [0xFE, 0xFE, 0x00, 0xE0, 0x06, 0x00, 0xFD], some 7, none⟩
  | .civPtt _ _ => ⟨[0xFF, 0xFF, 0x00, 0xFF, 0xFF, 0xFF, 0xFE, 0xFF], [0xFE, 0xFE, 0x00, 0xE0, 0x1C, 0x00, 0x00, 0xFD], some 8, none⟩
  | .yaeFreq _ => ⟨[0x00, 0x00, 0x00, 0x00, 0xFF], [0x00, 0x00, 0x00, 0x00, 0x01], some 5, none⟩
  | .yaeMode _ => ⟨[0x00, 0xFF, 0xFF, 0xFF, 0xFF], [0x00, 0x00, 0x00, 0x00, 0x07], some 5, none⟩
  | .yaePttOn => ⟨[0xFF, 0xFF, 0xFF, 0xFF, 0xFF], [0x00, 0x00, 0x00, 0x00, 0x08], some 5, none⟩
  | .yaePttOff => ⟨[0xFF, 0xFF, 0xFF, 0xFF, 0xFF], [0x00, 0x00, 0x00, 0x00, 0x88], some 5, none⟩
  | .kwRsp _ => ⟨[], [], none, some 0x3B⟩
  | .civAck _ _ _ => ⟨[0xFF, 0xFF, 0x00, 0x00, 0xFF], [0xFE, 0xFE, 0x00, 0x00, 0xFB], none, some 0xFD⟩
  | .civNak _ _ _ => ⟨[0xFF, 0xFF, 0x00, 0x00, 0xFF], [0xFE, 0xFE, 0x00, 0x00, 0xFA], none, some 0xFD⟩
  | .civOther _ => ⟨[], [], none, some 0xFD⟩
  | .yaeRsp _ => ⟨[0x00], [0x00], none, none⟩

/-- A decimal digit's character has the high nibble 3. -/
theorem ascDigit_high (f k : Nat) : ascDigit (digit f k) &&& 0xF0#8 = 0x30#8 := by
  have h : ∀ d : Fin 10, ascDigit d.val &&& 0xF0#8 = 0x30#8 := by decide
  exact h ⟨digit f k, Nat.mod_lt _ (by decide)⟩

/-- A digit's character has the high nibble 3. -/
theorem ascDigit_high_fin (d : Fin 10) : ascDigit d.val &&& 0xF0#8 = 0x30#8 := by
  revert d
  decide

/-- Every well-formed operation is encoded as an instance of its row. -/
def EncodesToItsRow.Statement (i : Instr) : Prop := i.wellFormed = true → (rowOf i).has (encodeBytes i)

theorem EncodesToItsRow.catInit : EncodesToItsRow.Statement .catInit := by
  intro _
  simp [Row.has, rowOf, encodeBytes]

theorem EncodesToItsRow.catShutdown : EncodesToItsRow.Statement .catShutdown := by
  intro _
  simp [Row.has, rowOf, encodeBytes]

theorem EncodesToItsRow.catStart : EncodesToItsRow.Statement .catStart := by
  intro _
  simp [Row.has, rowOf, encodeBytes]

theorem EncodesToItsRow.catStop : EncodesToItsRow.Statement .catStop := by
  intro _
  simp [Row.has, rowOf, encodeBytes]

theorem EncodesToItsRow.catSetch (c : Channel) : EncodesToItsRow.Statement (.catSetch c) := by
  intro _
  simp [Row.has, rowOf, encodeBytes]

theorem EncodesToItsRow.catGetch : EncodesToItsRow.Statement .catGetch := by
  intro _
  simp [Row.has, rowOf, encodeBytes]

theorem EncodesToItsRow.catSetptt (b : Bool) : EncodesToItsRow.Statement (.catSetptt b) := by
  intro _
  simp [Row.has, rowOf, encodeBytes]

theorem EncodesToItsRow.catIstx : EncodesToItsRow.Statement .catIstx := by
  intro _
  simp [Row.has, rowOf, encodeBytes]

theorem EncodesToItsRow.catIsrdy : EncodesToItsRow.Statement .catIsrdy := by
  intro _
  simp [Row.has, rowOf, encodeBytes]

theorem EncodesToItsRow.catPortcfg : EncodesToItsRow.Statement .catPortcfg := by
  intro _
  simp [Row.has, rowOf, encodeBytes]

theorem EncodesToItsRow.catRegsend (sink : Nat) : EncodesToItsRow.Statement (.catRegsend sink) := by
  intro _
  simp [Row.has, rowOf, encodeBytes]

theorem EncodesToItsRow.catRegack (cb : Nat) : EncodesToItsRow.Statement (.catRegack cb) := by
  intro _
  simp [Row.has, rowOf, encodeBytes]

theorem EncodesToItsRow.catResp (bytes : List Byte) : EncodesToItsRow.Statement (.catResp bytes) := by
  intro _
  simp [Row.has, rowOf, encodeBytes]

theorem EncodesToItsRow.elSetpwr (watts : Nat) : EncodesToItsRow.Statement (.elSetpwr watts) := by
  intro _
  simp [Row.has, rowOf, encodeBytes]

theorem EncodesToItsRow.elSetant (antenna : Byte) : EncodesToItsRow.Statement (.elSetant antenna) := by
  intro _
  simp [Row.has, rowOf, encodeBytes]

theorem EncodesToItsRow.rsConstruct (r t : Nat) : EncodesToItsRow.Statement (.rsConstruct r t) := by
  intro _
  simp [Row.has, rowOf, encodeBytes]

theorem EncodesToItsRow.rsDecimate (input : List Sample) : EncodesToItsRow.Statement (.rsDecimate input) := by
  intro _
  simp [Row.has, rowOf, encodeBytes]

theorem EncodesToItsRow.rsInterp (input : List Sample) : EncodesToItsRow.Statement (.rsInterp input) := by
  intro _
  simp [Row.has, rowOf, encodeBytes]

theorem EncodesToItsRow.rsReset : EncodesToItsRow.Statement .rsReset := by
  intro _
  simp [Row.has, rowOf, encodeBytes]

theorem EncodesToItsRow.fqEncCiv (f : Nat) : EncodesToItsRow.Statement (.fqEncCiv f) := by
  intro _
  simp [Row.has, rowOf, encodeBytes]

theorem EncodesToItsRow.fqDecCiv (bytes : List Byte) : EncodesToItsRow.Statement (.fqDecCiv bytes) := by
  intro _
  simp [Row.has, rowOf, encodeBytes]

theorem EncodesToItsRow.fqEncYae (f : Nat) : EncodesToItsRow.Statement (.fqEncYae f) := by
  intro _
  simp [Row.has, rowOf, encodeBytes]

theorem EncodesToItsRow.fqDecYae (bytes : List Byte) : EncodesToItsRow.Statement (.fqDecYae bytes) := by
  intro _
  simp [Row.has, rowOf, encodeBytes]

theorem EncodesToItsRow.fqEncKw (f : Nat) : EncodesToItsRow.Statement (.fqEncKw f) := by
  intro _
  simp [Row.has, rowOf, encodeBytes]

theorem EncodesToItsRow.fqDecKw (bytes : List Byte) : EncodesToItsRow.Statement (.fqDecKw bytes) := by
  intro _
  simp [Row.has, rowOf, encodeBytes]

theorem EncodesToItsRow.mdEncKw (m : RadioMode) : EncodesToItsRow.Statement (.mdEncKw m) := by
  intro _
  simp [Row.has, rowOf, encodeBytes]

theorem EncodesToItsRow.mdDecKw (d : Fin 10) : EncodesToItsRow.Statement (.mdDecKw d) := by
  intro _
  simp [Row.has, rowOf, encodeBytes]

theorem EncodesToItsRow.mdEncCiv (m : RadioMode) : EncodesToItsRow.Statement (.mdEncCiv m) := by
  intro _
  simp [Row.has, rowOf, encodeBytes]

theorem EncodesToItsRow.mdDecCiv (code : Byte) : EncodesToItsRow.Statement (.mdDecCiv code) := by
  intro _
  simp [Row.has, rowOf, encodeBytes]

theorem EncodesToItsRow.mdEncYae (m : RadioMode) : EncodesToItsRow.Statement (.mdEncYae m) := by
  intro _
  simp [Row.has, rowOf, encodeBytes]

theorem EncodesToItsRow.mdDecYae (code : Byte) : EncodesToItsRow.Statement (.mdDecYae code) := by
  intro _
  simp [Row.has, rowOf, encodeBytes]

theorem EncodesToItsRow.kwFa (f : Nat) : EncodesToItsRow.Statement (.kwFa f) := by
  intro _
  simp [Row.has, rowOf, encodeBytes, kwFaFrame, encKw, kwFrame, asc, kwTerm, ascDigit_high]

theorem EncodesToItsRow.kwMd (code : Fin 10) : EncodesToItsRow.Statement (.kwMd code) := by
  intro _
  simp [Row.has, rowOf, encodeBytes, kwMdFrame, kwFrame, kwTerm, ascDigit_high_fin]

theorem EncodesToItsRow.kwTx : EncodesToItsRow.Statement .kwTx := by
  intro _
  simp [Row.has, rowOf, encodeBytes, kwTxFrame, kwFrame, kwTerm]

theorem EncodesToItsRow.kwRx : EncodesToItsRow.Statement .kwRx := by
  intro _
  simp [Row.has, rowOf, encodeBytes, kwRxFrame, kwFrame, kwTerm]

theorem EncodesToItsRow.elPc (watts : Nat) : EncodesToItsRow.Statement (.elPc watts) := by
  intro _
  simp [Row.has, rowOf, encodeBytes, elPcFrame, kwFrame, asc, kwTerm, ascDigit_high]

theorem EncodesToItsRow.elAn (antenna : Fin 10) : EncodesToItsRow.Statement (.elAn antenna) := by
  intro _
  simp [Row.has, rowOf, encodeBytes, elAnFrame, kwFrame, kwTerm, ascDigit_high_fin]

theorem EncodesToItsRow.civFreq (rr : Byte) (f : Nat) : EncodesToItsRow.Statement (.civFreq rr f) := by
  intro _
  simp [Row.has, rowOf, encodeBytes, civFreqFrame, civFrame, encCiv, civEom, List.range, List.range.loop]

theorem EncodesToItsRow.civMode (rr mm : Byte) : EncodesToItsRow.Statement (.civMode rr mm) := by
  intro _
  simp [Row.has, rowOf, encodeBytes, civModeFrame, civFrame, civEom]

theorem EncodesToItsRow.civPtt (rr : Byte) (p : Bool) : EncodesToItsRow.Statement (.civPtt rr p) := by
  intro _
  cases p <;> simp [Row.has, rowOf, encodeBytes, civPttFrame, civFrame, civEom]

theorem EncodesToItsRow.yaeFreq (q : Nat) : EncodesToItsRow.Statement (.yaeFreq q) := by
  intro _
  simp [Row.has, rowOf, encodeBytes, yaeFreqFrame, encYaeTens, List.range, List.range.loop]

theorem EncodesToItsRow.yaeMode (mm : Byte) : EncodesToItsRow.Statement (.yaeMode mm) := by
  intro _
  simp [Row.has, rowOf, encodeBytes, yaeModeFrame]

theorem EncodesToItsRow.yaePttOn : EncodesToItsRow.Statement .yaePttOn := by
  intro _
  simp [Row.has, rowOf, encodeBytes]

theorem EncodesToItsRow.yaePttOff : EncodesToItsRow.Statement .yaePttOff := by
  intro _
  simp [Row.has, rowOf, encodeBytes]

theorem EncodesToItsRow.kwRsp (before : List Byte) : EncodesToItsRow.Statement (.kwRsp before) := by
  intro _
  simp [Row.has, rowOf, encodeBytes, kwTerm]

theorem EncodesToItsRow.civAck (x y : Byte) (rest : List Byte) : EncodesToItsRow.Statement (.civAck x y rest) := by
  intro _
  simp [Row.has, rowOf, encodeBytes, civEom, List.getLast?_cons]

theorem EncodesToItsRow.civNak (x y : Byte) (rest : List Byte) : EncodesToItsRow.Statement (.civNak x y rest) := by
  intro _
  simp [Row.has, rowOf, encodeBytes, civEom, List.getLast?_cons]

theorem EncodesToItsRow.civOther (before : List Byte) : EncodesToItsRow.Statement (.civOther before) := by
  intro _
  simp [Row.has, rowOf, encodeBytes, civEom]

theorem EncodesToItsRow.yaeRsp (bytes : List Byte) : EncodesToItsRow.Statement (.yaeRsp bytes) := by
  intro h
  cases bytes with
  | nil => simp [Instr.wellFormed] at h
  | cons b bs => simp [Row.has, rowOf, encodeBytes]

end Sys2Proof.Laws
end

