-- ==== Sys2Proof/Laws/Storage.lean ====
section
/-! SUPPORT. The storage spaces HIST, COEFF and RXBUF: reading after a write, and that every operation on them keeps
their form (R40 to R43, R60 to R63). -/

namespace Sys2Proof.Machine

variable {α : Type}

@[simp] theorem histWrite_r (u : FirState α) (i : Nat) (v : α) : (histWrite u i v).r = u.r := rfl
@[simp] theorem histWrite_t (u : FirState α) (i : Nat) (v : α) : (histWrite u i v).t = u.t := rfl
@[simp] theorem histWrite_coeff (u : FirState α) (i : Nat) (v : α) : (histWrite u i v).coeff = u.coeff := rfl
@[simp] theorem histWrite_pos (u : FirState α) (i : Nat) (v : α) : (histWrite u i v).pos = u.pos := rfl
@[simp] theorem firPush_r (u : FirState α) (v : α) : (firPush u v).r = u.r := rfl
@[simp] theorem firPush_t (u : FirState α) (v : α) : (firPush u v).t = u.t := rfl
@[simp] theorem firPush_coeff (u : FirState α) (v : α) : (firPush u v).coeff = u.coeff := rfl
@[simp] theorem firPush_hist (u : FirState α) (v : α) : (firPush u v).hist = u.hist.set u.pos v := rfl
@[simp] theorem firPush_pos (u : FirState α) (v : α) : (firPush u v).pos = (u.pos + 1) % totalTaps u := rfl
@[simp] theorem totalTaps_push (u : FirState α) (v : α) : totalTaps (firPush u v) = totalTaps u := rfl
@[simp] theorem firReset_r (A : Arith α) (u : FirState α) : (firReset A u).r = u.r := rfl
@[simp] theorem firReset_t (A : Arith α) (u : FirState α) : (firReset A u).t = u.t := rfl
@[simp] theorem firReset_coeff (A : Arith α) (u : FirState α) : (firReset A u).coeff = u.coeff := rfl
@[simp] theorem firReset_pos (A : Arith α) (u : FirState α) : (firReset A u).pos = 0 := rfl

/-- A read of the element just written gives the value written. -/
theorem histRead_write_same (A : Arith α) (u : FirState α) {i : Nat} (v : α) (h : i < u.hist.length) :
    histRead A (histWrite u i v) i = v := by
  simp [histRead, histWrite, h]

/-- A write leaves every other element alone. -/
theorem histRead_write_other (A : Arith α) (u : FirState α) {i j : Nat} (v : α) (h : i ≠ j) :
    histRead A (histWrite u i v) j = histRead A u j := by
  simp [histRead, histWrite, List.getD, h]

/-- A push keeps the form of the storage. -/
theorem firPush_storage {u : FirState α} (h : storageLegal u) (v : α) : storageLegal (firPush u v) := by
  obtain ⟨hr, ht, hn, hc, hh, hp⟩ := h
  refine ⟨hr, ht, hn, hc, by simpa using hh, ?_⟩
  exact Nat.mod_lt _ (by simpa using Nat.lt_of_lt_of_le Nat.zero_lt_two hn)

/-- A reset keeps the form of the storage. -/
theorem firReset_storage (A : Arith α) {u : FirState α} (h : storageLegal u) : storageLegal (firReset A u) := by
  obtain ⟨hr, ht, hn, hc, -, -⟩ := h
  exact ⟨hr, ht, hn, hc, by simp [firReset, totalTaps], Nat.lt_of_lt_of_le Nat.zero_lt_two hn⟩

/-- A new resampler with `N` coefficients has the form of the storage. -/
theorem firNew_storage (A : Arith α) {r t : Nat} {c : List α} (hr : 1 ≤ r) (ht : 1 ≤ t) (hn : 2 ≤ r * t)
    (hc : c.length = r * t) : storageLegal (firNew A r t c) :=
  ⟨hr, ht, hn, hc, by simp [firNew, totalTaps], Nat.lt_of_lt_of_le Nat.zero_lt_two hn⟩

/-- A decimation writes nothing but `hist` and `pos`, and keeps the form of the storage. -/
theorem decimateFrom_keeps (A : Arith α) (xs : List α) : ∀ (cnt : Nat) (u : FirState α),
    (decimateFrom A cnt u xs).1.r = u.r ∧ (decimateFrom A cnt u xs).1.t = u.t ∧
      (decimateFrom A cnt u xs).1.coeff = u.coeff ∧ (storageLegal u → storageLegal (decimateFrom A cnt u xs).1) := by
  induction xs with
  | nil => exact fun _ _ => ⟨rfl, rfl, rfl, id⟩
  | cons x xs ih =>
    intro cnt u
    obtain ⟨h1, h2, h3, h4⟩ := ih (cnt + 1) (firPush u x)
    exact ⟨h1, h2, h3, fun h => h4 (firPush_storage h x)⟩

/-- Pushing values writes nothing but `hist` and `pos`, and keeps the form of the storage. -/
theorem pushEach_keeps (A : Arith α) (vs : List α) : ∀ u : FirState α,
    (pushEach A u vs).1.r = u.r ∧ (pushEach A u vs).1.t = u.t ∧ (pushEach A u vs).1.coeff = u.coeff ∧
      (storageLegal u → storageLegal (pushEach A u vs).1) := by
  induction vs with
  | nil => exact fun _ => ⟨rfl, rfl, rfl, id⟩
  | cons v vs ih =>
    intro u
    obtain ⟨h1, h2, h3, h4⟩ := ih (firPush u v)
    exact ⟨h1, h2, h3, fun h => h4 (firPush_storage h v)⟩

/-- An interpolation writes nothing but `hist` and `pos`, and keeps the form of the storage. -/
theorem interpolate_keeps (A : Arith α) (xs : List α) : ∀ u : FirState α,
    (interpolate A u xs).1.r = u.r ∧ (interpolate A u xs).1.t = u.t ∧ (interpolate A u xs).1.coeff = u.coeff ∧
      (storageLegal u → storageLegal (interpolate A u xs).1) := by
  induction xs with
  | nil => exact fun _ => ⟨rfl, rfl, rfl, id⟩
  | cons x xs ih =>
    intro u
    obtain ⟨p1, p2, p3, p4⟩ := pushEach_keeps A (stuffed A u.r x) u
    obtain ⟨h1, h2, h3, h4⟩ := ih (pushEach A u (stuffed A u.r x)).1
    exact ⟨h1.trans p1, h2.trans p2, h3.trans p3, fun h => h4 (p4 h)⟩

/-- The reference vector has one coefficient for each tap. -/
theorem coeffReference_length (fmt : FpFormat) (r t : Nat) : (coeffReference fmt r t).length = r * t := by
  simp [coeffReference]

/-- An empty buffer is not over the cap. -/
@[simp] theorem overCap_zero (p : Straps) : overCap p 0 = false := by
  cases hg : p.rxGuard.compare <;> simp [overCap, hg, rxbufCap]

/-- What holds of the receive buffer after every byte: no terminator in it, and not over the cap where the guard stands in
the byte's step. -/
def RxClean (p : Straps) (term : Byte) (buf : List Byte) : Prop :=
  term ∉ buf ∧ (p.rxGuard.place ≠ .callEnd → overCap p buf.length = false)

theorem rxClean_nil (p : Straps) (term : Byte) : RxClean p term [] := ⟨by simp, fun _ => by simp⟩

theorem rxClean_append {p : Straps} {term b : Byte} {buf : List Byte} (h : RxClean p term buf) (hb : b ≠ term)
    (hc : p.rxGuard.place = .callEnd ∨ overCap p (buf.length + 1) = false) : RxClean p term (buf ++ [b]) := by
  refine ⟨by simpa using ⟨h.1, fun e => hb e.symm⟩, fun hp => ?_⟩
  simpa using hc.resolve_left hp

/-- One received byte keeps the ASCII parser's buffer clean. -/
theorem kwRxByte_clean {s : State} (h : RxClean s.straps kwTerm s.cat.rxbuf) (b : Byte) :
    RxClean (kwRxByte s b).straps kwTerm (kwRxByte s b).cat.rxbuf := by
  obtain ⟨-, e⟩ | ⟨-, -, -, e⟩ | ⟨hb, hc, e⟩ := kwRxByte_cases s b
  · simpa [e] using rxClean_nil s.straps kwTerm
  · simpa [e] using rxClean_nil s.straps kwTerm
  · simpa [e] using rxClean_append h hb hc

/-- One received byte keeps the CI-V parser's buffer clean. -/
theorem civRxByte_clean {s : State} (h : RxClean s.straps civEom s.cat.rxbuf) (b : Byte) :
    RxClean (civRxByte s b).straps civEom (civRxByte s b).cat.rxbuf := by
  obtain ⟨-, -, -, e⟩ | ⟨-, -, e⟩ | ⟨-, -, -, e⟩ | ⟨hb, hc, e⟩ := civRxByte_cases s b
  · simpa [e] using rxClean_nil s.straps civEom
  · simpa [e] using rxClean_nil s.straps civEom
  · simpa [e] using rxClean_nil s.straps civEom
  · simpa [e] using rxClean_append h hb hc

/-- The guard at the end of a call leaves no buffer over the cap. -/
theorem guardAt_callEnd {s : State} {term : Byte} (h : RxClean s.straps term s.cat.rxbuf) :
    term ∉ (guardAt s .callEnd).cat.rxbuf ∧ overCap s.straps (guardAt s .callEnd).cat.rxbuf.length = false := by
  obtain ⟨-, -, e⟩ | ⟨hc, e⟩ := guardAt_cases s .callEnd
  · simp [e]
  · rw [e]
    exact ⟨h.1, hc.elim h.2 id⟩

/-- The storage of the machine after reset has its form. -/
theorem reset_storage : storageLegal State.reset.rsmp :=
  firNew_storage _ (by decide) (by decide) (by decide) (coeffReference_length _ _ _)

end Sys2Proof.Machine
end

