-- ==== Sys2Proof/Tests/Slice0.lean ====
section
/-! SUPPORT. The model's own tests.  Expected values come from the spec: the encodings of R100 to R104 and the vectors of
95_test_vectors.md, named in each comment.  The last section holds a witness for the hypotheses of each statement that
has some: a concrete state and operands that meet them together. -/

namespace Sys2Proof.Tests

open Machine

/-! ## WellFormed: an ill-formed term for each check -/

def noChannel : Channel := ⟨0, 0, 0, .lsb, .lsb, 0, 0, 0, false⟩

theorem test_wf_channel_id : Instr.wellFormed (.catSetch { noChannel with id := 2 ^ 2040 }) = false := by decide +kernel
theorem test_wf_channel_tx : Instr.wellFormed (.catSetch { noChannel with txFrequency := 2 ^ 2040 }) = false := by decide +kernel
theorem test_wf_channel_rx : Instr.wellFormed (.catSetch { noChannel with rxFrequency := 2 ^ 2040 }) = false := by decide +kernel
theorem test_wf_channel_att : Instr.wellFormed (.catSetch { noChannel with attenuation := 2 ^ 2040 }) = false := by decide +kernel
theorem test_wf_regsend : Instr.wellFormed (.catRegsend (2 ^ 2040)) = false := by decide +kernel
theorem test_wf_regack : Instr.wellFormed (.catRegack (2 ^ 2040)) = false := by decide +kernel
theorem test_wf_setpwr : Instr.wellFormed (.elSetpwr (2 ^ 2040)) = false := by decide +kernel
theorem test_wf_construct_r : Instr.wellFormed (.rsConstruct (2 ^ 2040) 1) = false := by decide +kernel
theorem test_wf_construct_t : Instr.wellFormed (.rsConstruct 1 (2 ^ 2040)) = false := by decide +kernel
theorem test_wf_enc_civ : Instr.wellFormed (.fqEncCiv (2 ^ 2040)) = false := by decide +kernel
theorem test_wf_enc_yae : Instr.wellFormed (.fqEncYae (2 ^ 2040)) = false := by decide +kernel
theorem test_wf_enc_kw : Instr.wellFormed (.fqEncKw (2 ^ 2040)) = false := by decide +kernel
theorem test_wf_dec_civ : Instr.wellFormed (.fqDecCiv [0, 0, 0, 0]) = false := by decide
theorem test_wf_dec_yae : Instr.wellFormed (.fqDecYae [0, 0, 0, 0, 0]) = false := by decide
theorem test_wf_dec_kw : Instr.wellFormed (.fqDecKw [0x30]) = false := by decide
theorem test_wf_kw_fa : Instr.wellFormed (.kwFa 100000000000) = false := by decide
theorem test_wf_el_pc : Instr.wellFormed (.elPc 1000) = false := by decide
theorem test_wf_civ_freq : Instr.wellFormed (.civFreq 0x94 10000000000) = false := by decide
theorem test_wf_yae_freq : Instr.wellFormed (.yaeFreq 100000000) = false := by decide
theorem test_wf_kw_rsp : Instr.wellFormed (.kwRsp [0x3B]) = false := by decide
theorem test_wf_civ_ack : Instr.wellFormed (.civAck 0xE0 0x94 [0xFD]) = false := by decide
theorem test_wf_civ_nak : Instr.wellFormed (.civNak 0xFD 0x94 []) = false := by decide
theorem test_wf_civ_other_eom : Instr.wellFormed (.civOther [0xFD]) = false := by decide
theorem test_wf_civ_other_ack : Instr.wellFormed (.civOther [0xFE, 0xFE, 0xE0, 0x94, 0xFB]) = false := by decide
theorem test_wf_yae_rsp : Instr.wellFormed (.yaeRsp []) = false := by decide
/-- The length checks of CAT.RESP, RS.DECIMATE and RS.INTERP, on the check they share. -/
theorem test_wf_length : fitsOperand (2 ^ 2040) = false := by decide +kernel

/-! ## Decode: every constructor from its bytes (R100 to R104) -/

def host (bs : List Byte) : Except DecodeError Instr := decode .elecraft ⟨.host, bs⟩
def tx (bs : List Byte) : Except DecodeError Instr := decode .elecraft ⟨.tx, bs⟩

theorem test_decode_catInit : host [0x00] = .ok .catInit := rfl
theorem test_decode_catShutdown : host [0x01] = .ok .catShutdown := rfl
theorem test_decode_catStart : host [0x02] = .ok .catStart := rfl
theorem test_decode_catStop : host [0x03] = .ok .catStop := rfl
theorem test_decode_catSetch :
    host [0x04, 0x01, 0x07, 0x00, 0x03, 0x10, 0x70, 0xD9, 0x01, 0x0D, 0x02, 0x32, 0x00, 0x01] =
      .ok (.catSetch ⟨7, 0, 14250000, .usb, .dataUsb, 2, 50, 0, true⟩) := rfl
theorem test_decode_catGetch : host [0x05] = .ok .catGetch := rfl
theorem test_decode_catSetptt : host [0x06, 0x01] = .ok (.catSetptt true) := rfl
theorem test_decode_catIstx : host [0x07] = .ok .catIstx := rfl
theorem test_decode_catIsrdy : host [0x08] = .ok .catIsrdy := rfl
theorem test_decode_catPortcfg : host [0x09] = .ok .catPortcfg := rfl
theorem test_decode_catRegsend : host [0x0A, 0x01, 0x05] = .ok (.catRegsend 5) := rfl
theorem test_decode_catRegack : host [0x0B, 0x01, 0x06] = .ok (.catRegack 6) := rfl
theorem test_decode_catResp : host [0x0C, 0x01, 0x02, 0x3F, 0x3B] = .ok (.catResp [0x3F, 0x3B]) := rfl
theorem test_decode_elSetpwr : host [0x0D, 0x02, 0xD2, 0x04] = .ok (.elSetpwr 1234) := rfl
theorem test_decode_elSetant : host [0x0E, 0x01] = .ok (.elSetant 2) := rfl
theorem test_decode_rsConstruct : host [0x10, 0x01, 0x01, 0x02, 0x00] = .ok (.rsConstruct 2 8) := rfl
theorem test_decode_rsDecimate :
    host [0x11, 0x01, 0x01, 0x00, 0x00, 0x00, 0x00, 0x00, 0x00, 0xF0, 0x3F] =
      .ok (.rsDecimate [0x3FF0000000000000]) := rfl
theorem test_decode_rsInterp :
    host [0x12, 0x01, 0x01, 0x00, 0x00, 0x00, 0x00, 0x00, 0x00, 0x00, 0x40] =
      .ok (.rsInterp [0x4000000000000000]) := rfl
theorem test_decode_rsReset : host [0x13] = .ok .rsReset := rfl
theorem test_decode_fqEncCiv : host [0x20, 0x01, 0x13] = .ok (.fqEncCiv 19) := rfl
theorem test_decode_fqDecCiv : host [0x21, 0x00, 0x00, 0x25, 0x14, 0x00] = .ok (.fqDecCiv [0x00, 0x00, 0x25, 0x14, 0x00]) := rfl
theorem test_decode_fqEncYae : host [0x22, 0x01, 0x13] = .ok (.fqEncYae 19) := rfl
theorem test_decode_fqDecYae : host [0x23, 0x01, 0x42, 0x50, 0x00] = .ok (.fqDecYae [0x01, 0x42, 0x50, 0x00]) := rfl
theorem test_decode_fqEncKw : host [0x24, 0x01, 0x13] = .ok (.fqEncKw 19) := rfl
theorem test_decode_fqDecKw :
    host [0x25, 0, 0, 0, 0, 0, 0, 0, 0, 0, 4, 2] =
      .ok (.fqDecKw [0x30, 0x30, 0x30, 0x30, 0x30, 0x30, 0x30, 0x30, 0x30, 0x34, 0x32]) := by decide
theorem test_decode_mdEncKw : host [0x28, 0x07] = .ok (.mdEncKw .rtty) := rfl
theorem test_decode_mdDecKw : host [0x29, 0x06] = .ok (.mdDecKw 6) := rfl
theorem test_decode_mdEncCiv : host [0x2A, 0x0A] = .ok (.mdEncCiv .fskR) := rfl
theorem test_decode_mdDecCiv : host [0x2B, 0x08] = .ok (.mdDecCiv 8) := rfl
theorem test_decode_mdEncYae : host [0x2C, 0x0B] = .ok (.mdEncYae .dig) := rfl
theorem test_decode_mdDecYae : host [0x2D, 0x0A] = .ok (.mdDecYae 0x0A) := rfl
theorem test_decode_kwFa :
    tx [0x46, 0x41, 0x30, 0x30, 0x30, 0x31, 0x34, 0x32, 0x35, 0x30, 0x30, 0x30, 0x30, 0x3B] = .ok (.kwFa 14250000) := by
  decide
theorem test_decode_kwMd : tx [0x4D, 0x44, 0x32, 0x3B] = .ok (.kwMd 2) := by decide
theorem test_decode_kwTx : tx [0x54, 0x58, 0x3B] = .ok .kwTx := by decide
theorem test_decode_kwRx : tx [0x52, 0x58, 0x3B] = .ok .kwRx := by decide
theorem test_decode_elPc : tx [0x50, 0x43, 0x30, 0x30, 0x35, 0x3B] = .ok (.elPc 5) := by decide
theorem test_decode_elAn : tx [0x41, 0x4E, 0x32, 0x3B] = .ok (.elAn 2) := by decide
theorem test_decode_civFreq :
    tx [0xFE, 0xFE, 0x94, 0xE0, 0x05, 0x00, 0x00, 0x25, 0x14, 0x00, 0xFD] = .ok (.civFreq 0x94 14250000) := by decide
theorem test_decode_civMode : tx [0xFE, 0xFE, 0x94, 0xE0, 0x06, 0x01, 0xFD] = .ok (.civMode 0x94 0x01) := by decide
theorem test_decode_civPtt : tx [0xFE, 0xFE, 0x94, 0xE0, 0x1C, 0x00, 0x01, 0xFD] = .ok (.civPtt 0x94 true) := by decide
theorem test_decode_yaeFreq : tx [0x01, 0x42, 0x50, 0x00, 0x01] = .ok (.yaeFreq 1425000) := by decide
theorem test_decode_yaeMode : tx [0x0A, 0x00, 0x00, 0x00, 0x07] = .ok (.yaeMode 0x0A) := by decide
theorem test_decode_yaePttOn : tx [0x00, 0x00, 0x00, 0x00, 0x08] = .ok .yaePttOn := by decide
theorem test_decode_yaePttOff : tx [0x00, 0x00, 0x00, 0x00, 0x88] = .ok .yaePttOff := by decide
theorem test_decode_kwRsp : decode .kenwood ⟨.rx, [0x3F, 0x3B]⟩ = .ok (.kwRsp [0x3F]) := by decide
theorem test_decode_civAck :
    decode .icomCiv ⟨.rx, [0xFE, 0xFE, 0xE0, 0x94, 0xFB, 0x00, 0xFD]⟩ = .ok (.civAck 0xE0 0x94 [0x00]) := by decide
theorem test_decode_civNak :
    decode .icomCiv ⟨.rx, [0xFE, 0xFE, 0xE0, 0x94, 0xFA, 0xFD]⟩ = .ok (.civNak 0xE0 0x94 []) := by decide
theorem test_decode_civOther :
    decode .icomCiv ⟨.rx, [0xFE, 0xFE, 0xE0, 0x94, 0xFD]⟩ = .ok (.civOther [0xFE, 0xFE, 0xE0, 0x94]) := by decide
theorem test_decode_yaeRsp : decode .yaesuCat ⟨.rx, [0xF0]⟩ = .ok (.yaeRsp [0xF0]) := by decide
/-- R105 (a), U2: codes between the groups of R91. -/
theorem test_decode_unknown : ([0x0F, 0x14, 0x26, 0x2E, 0xFF] : List Byte).all
    (fun op => host [op] = .error (.unknownOperation op)) = true := by decide
/-- R23, U14: mode field 15; an operand missing; a byte too many. -/
theorem test_decode_bad :
    host [0x28, 0x0F] = .error (.badRadioMode 0x0F) ∧ host [0x06] = .error .truncatedOperand ∧
      host [0x07, 0x00] = .error .surplusBytes ∧ host [] = .error .emptyRequest ∧
      host [0x29, 0x0A] = .error (.badDigit 0x0A) ∧ tx [0x5A, 0x5A, 0x3B] = .error .unknownFrame := by decide

/-! ## Steps -/

/-- A ready unit of a variant with a byte sink 1 and an acknowledge callback 2, and a resampler `R = 1`, `T = 2` with the
coefficients 0.5, 0.5 (V68). -/
def unit (v : Variant) : State where
  straps := { defaultStraps with variant := v }
  cat := { Cat.constructed with ready := true, sendCb := some 1, ackCb := some 2 }
  rsmp := ⟨1, 2, [0x3FE0000000000000, 0x3FE0000000000000], [0, 0], 0⟩
  events := []
  result := .void
  agenda := []
  freeIndex := 0

/-- The same unit not ready. -/
def idleUnit (v : Variant) : State := { unit v with cat := { (unit v).cat with ready := false } }

/-- The same unit with a resampler `R = 2`, `T = 1`. -/
def halfRate : State := { unit .kenwood with rsmp := ⟨2, 1, [0x3FE0000000000000, 0x3FE0000000000000], [0, 0], 0⟩ }

def after (i : Instr) (s : State) : Option State :=
  match exec i s with
  | .next t => some t
  | .fault _ => none
  | .refused _ => none

def refusal (i : Instr) (s : State) : Option Refusal :=
  match exec i s with
  | .next _ => none
  | .fault _ => none
  | .refused r => some r

def sent (i : Instr) (s : State) : Option (List Event) := (after i s).map fun t => t.events
def answer (i : Instr) (s : State) : Option Result := (after i s).map fun t => t.result
def buffer (i : Instr) (s : State) : Option (List Byte) := (after i s).map fun t => t.cat.rxbuf

/-- A Channel of S7. -/
def chan14 : Channel := { noChannel with rxFrequency := 14250000, rxMode := .usb }

/-- V19. -/
theorem test_init : (after .catInit (idleUnit .kenwood)).map (fun t => (t.cat.ready, t.result)) = some (true, .bool true) := by
  decide
/-- V20, R335: `tx` stays. -/
theorem test_shutdown : (after .catShutdown { unit .kenwood with cat := { (unit .kenwood).cat with tx := true } }).map
    (fun t => (t.cat.ready, t.cat.tx)) = some (false, true) := by decide
/-- V18. -/
theorem test_start : answer .catStart (idleUnit .kenwood) = some (.bool false) := by decide
/-- V21. -/
theorem test_stop : answer .catStop (idleUnit .kenwood) = some (.bool true) := by decide
/-- S7, V28. -/
theorem test_setch_kenwood : sent (.catSetch chan14) (unit .kenwood) = some
    [.txcb 1 [0x46, 0x41, 0x30, 0x30, 0x30, 0x31, 0x34, 0x32, 0x35, 0x30, 0x30, 0x30, 0x30, 0x3B],
      .txcb 1 [0x4D, 0x44, 0x32, 0x3B]] := by decide
/-- S8, V40. -/
theorem test_setch_icom : sent (.catSetch chan14) (unit .icomCiv) = some
    [.txcb 1 [0xFE, 0xFE, 0x94, 0xE0, 0x05, 0x00, 0x00, 0x25, 0x14, 0x00, 0xFD],
      .txcb 1 [0xFE, 0xFE, 0x94, 0xE0, 0x06, 0x01, 0xFD]] := by decide
/-- S9, V51: the stored Channel keeps its 1 Hz digit. -/
theorem test_setch_yaesu : (after (.catSetch { chan14 with rxFrequency := 14250009, rxMode := .dataUsb }) (unit .yaesuCat)).map
    (fun t => (t.events, t.cat.chan.rxFrequency)) = some
    ([.txcb 1 [0x01, 0x42, 0x50, 0x00, 0x01], .txcb 1 [0x0A, 0x00, 0x00, 0x00, 0x07]], 14250009) := by decide
/-- V23. -/
theorem test_setch_not_ready : (after (.catSetch chan14) (idleUnit .kenwood)).map (fun t => (t.events, t.result)) =
    some ([], .bool false) := by decide
/-- V23e. -/
theorem test_getch : ((after (.catSetch chan14) (unit .kenwood)).bind (answer .catGetch)) = some (.channel chan14) := by
  decide
/-- R73, U1: before any CAT.SETCH a second CAT.GETCH changes nothing. -/
theorem test_getch_again : (after .catGetch (unit .kenwood)).bind (after .catGetch) = after .catGetch (unit .kenwood) := rfl
/-- V23a. -/
theorem test_setptt_not_ready : (after (.catSetptt true) (idleUnit .kenwood)).map (fun t => (t.events, t.cat.tx)) =
    some ([], true) := by decide
/-- V42. -/
theorem test_setptt_icom : sent (.catSetptt true) (unit .icomCiv) =
    some [.txcb 1 [0xFE, 0xFE, 0x94, 0xE0, 0x1C, 0x00, 0x01, 0xFD]] := by decide
/-- V23c: the sink, once registered, takes the frames from the serial transport. -/
theorem test_regsend : (((after (.catSetptt true) { unit .kenwood with
      straps := { (unit .kenwood).straps with serialPresent := true }
      cat := { (unit .kenwood).cat with sendCb := none } }).bind (after (.catRegsend 9))).bind (sent (.catSetptt false))) =
    some [.txser [0x54, 0x58, 0x3B], .txcb 9 [0x52, 0x58, 0x3B]] := by decide
theorem test_istx : answer .catIstx (unit .kenwood) = some (.bool false) := by decide
theorem test_isrdy : answer .catIsrdy (unit .kenwood) = some (.bool true) := by decide
/-- V25, V27. -/
theorem test_portcfg :
    answer .catPortcfg (unit .elecraft) =
      some (.text [0x33, 0x38, 0x34, 0x30, 0x30, 0x2C, 0x6E, 0x2C, 0x38, 0x2C, 0x31]) ∧
    answer .catPortcfg (unit .yaesuCat) = some (.text [0x39, 0x36, 0x30, 0x30, 0x2C, 0x6E, 0x2C, 0x38, 0x2C, 0x32]) := by
  decide
/-- V23g: a new callback takes the place of the old one. -/
theorem test_regack : ((after (.catRegack 7) (idleUnit .kenwood)).bind (sent (.catResp [0x3B]))) = some [.ack 7] := by
  decide
/-- V30a. -/
theorem test_resp_kenwood : (after (.catResp [0x46, 0x41, 0x3B, 0x4D, 0x44, 0x32, 0x3B]) (unit .kenwood)).map
    (fun t => (t.events, t.cat.rxbuf)) = some ([.ack 2, .ack 2], []) := by decide
/-- V44e: an echo and an ACK in one call. -/
theorem test_resp_icom : (after (.catResp [0xFE, 0xFE, 0x94, 0xE0, 0x05, 0x00, 0x40, 0x07, 0x07, 0x00, 0xFD,
    0xFE, 0xFE, 0xE0, 0x94, 0xFB, 0xFD]) (unit .icomCiv)).map (fun t => (t.events, t.cat.rxbuf)) = some ([.ack 2], []) := by
  decide +kernel
/-- V31, V32. -/
theorem test_overflow : (buffer (.catResp [0x41]) { unit .kenwood with
    cat := { (unit .kenwood).cat with rxbuf := List.replicate 256 0x41 } }) = some [] := by decide +kernel
theorem test_at_cap : (buffer (.catResp [0x41]) { unit .kenwood with
    cat := { (unit .kenwood).cat with rxbuf := List.replicate 255 0x41 } }).map List.length = some 256 := by decide +kernel
/-- `RX_GUARD` after the terminator test, before it, and at the end of a call (R145, D17): an FD as the 257th byte of an
ACK; 260 bytes in one call. -/
def guarded (place : GuardPlace) : State :=
  { unit .icomCiv with straps := { (unit .icomCiv).straps with rxGuard := ⟨.more, place⟩ } }
def longAck : List Byte := [0xFE, 0xFE, 0xE0, 0x94, 0xFB] ++ List.replicate 251 0x41 ++ [0xFD]
theorem test_guard_after : sent (.catResp longAck) (guarded .afterTest) = some [.ack 2] ∧
    (buffer (.catResp (List.replicate 260 0x41)) (guarded .afterTest)).map List.length = some 3 := by decide +kernel
theorem test_guard_before : sent (.catResp longAck) (guarded .beforeTest) = some [] ∧
    (buffer (.catResp (List.replicate 260 0x41)) (guarded .beforeTest)).map List.length = some 3 := by decide +kernel
theorem test_guard_callEnd : sent (.catResp longAck) (guarded .callEnd) = some [.ack 2] ∧
    (buffer (.catResp (List.replicate 260 0x41)) (guarded .callEnd)).map List.length = some 0 := by decide +kernel
/-- V29a, V29d. -/
theorem test_setpwr : sent (.elSetpwr 1234) (unit .elecraft) = some [.txcb 1 [0x50, 0x43, 0x32, 0x33, 0x34, 0x3B]] ∧
    refusal (.elSetpwr 50) (unit .kenwood) = some .notThisVariant := by decide
/-- V29b, V29d. -/
theorem test_setant : sent (.elSetant 2) (unit .elecraft) = some [.txcb 1 [0x41, 0x4E, 0x32, 0x3B]] ∧
    refusal (.elSetant 3) (unit .elecraft) = some .antennaOutsideGrammar := by decide
/-- V68: the reference coefficients of `R = 1`, `T = 2`; V69. -/
theorem test_construct : (after (.rsConstruct 1 2) (unit .kenwood)).map (fun t => t.rsmp.coeff) =
    some [0x3FE0000000000000, 0x3FE0000000000000] := by decide +kernel
theorem test_construct_bounds :
    refusal (.rsConstruct 0 8) (unit .kenwood) = some .badGeometry ∧
      refusal (.rsConstruct 6 0) (unit .kenwood) = some .badGeometry ∧
      refusal (.rsConstruct 1 1) (unit .kenwood) = some .badGeometry := by decide
/-- R260, V68a: the reference vector is one the spec admits, and its values at `R = 2`, `T = 2` are those of V68a to 13
digits (in units of `2 ^ -1074`, times `10 ^ 13`). -/
theorem test_coeff_sum : coeffLegal .binary64 6 8 (coeffReference .binary64 6 8) = true := by decide +kernel
theorem test_coeff_values : (List.zipWith (fun c e : Int => decide ((c * 10 ^ 13 - e * 2 ^ 1074).natAbs ≤ 2 ^ 1074))
    ((coeffReference .binary64 2 2).map (unitsOf .binary64)) [217449753264, 4782550246736]).all id = true := by
  decide +kernel

/-- V68: 1, 2, 3 give 0.5, 1.5, 2.5, and the position 1. -/
theorem test_decimate : (after (.rsDecimate [0x3FF0000000000000, 0x4000000000000000, 0x4008000000000000])
    (unit .kenwood)).map (fun t => (t.result, t.rsmp.pos)) =
    some (.samples [0x3FE0000000000000, 0x3FF8000000000000, 0x4004000000000000], 1) := by decide +kernel
/-- R264 by hand: 1 at `R = 2` pushes 2 and 0 through 0.5, 0.5 and gives 1, 1. -/
theorem test_interp : (after (.rsInterp [0x3FF0000000000000]) halfRate).map (fun t => (t.result, t.rsmp.pos)) =
    some (.samples [0x3FF0000000000000, 0x3FF0000000000000], 0) := by decide +kernel
/-- V64. -/
theorem test_reset : (after .rsReset { unit .kenwood with rsmp := ⟨1, 2, [1, 2], [3, 4], 1⟩ }).map (fun t => t.rsmp) =
    some ⟨1, 2, [1, 2], [0, 0], 0⟩ := by decide
/-- V7d. -/
theorem test_enc : answer (.fqEncCiv 14250009) (unit .kenwood) = some (.bytes [0x09, 0x00, 0x25, 0x14, 0x00]) ∧
    answer (.fqEncYae 14250009) (unit .kenwood) = some (.bytes [0x01, 0x42, 0x50, 0x00]) ∧
    answer (.fqEncKw 14250009) (unit .kenwood) =
      some (.bytes [0x30, 0x30, 0x30, 0x31, 0x34, 0x32, 0x35, 0x30, 0x30, 0x30, 0x39]) := by decide
/-- V13, V16: out of range. -/
theorem test_enc_wrap : answer (.fqEncCiv 12345678901) (unit .kenwood) = some (.bytes [0x01, 0x89, 0x67, 0x45, 0x23]) ∧
    answer (.fqEncYae 18446744073709551615) (unit .kenwood) = some (.bytes [0x70, 0x95, 0x51, 0x61]) := by decide
/-- The decoder-only vectors. -/
theorem test_dec : answer (.fqDecCiv [0x78, 0x56, 0x34, 0x12, 0x00]) (unit .kenwood) = some (.frequency 12345678) ∧
    answer (.fqDecYae [0x12, 0x34, 0x56, 0x78]) (unit .kenwood) = some (.frequency 123456780) ∧
    answer (.fqDecKw [0x30, 0x30, 0x30, 0x30, 0x30, 0x30, 0x30, 0x30, 0x30, 0x34, 0x32]) (unit .kenwood) =
      some (.frequency 42) := by decide
theorem test_dec_refused : refusal (.fqDecCiv [0x0A, 0x00, 0x00, 0x00, 0x00]) (unit .kenwood) = some .notDecimal ∧
    refusal (.fqDecYae [0xF0, 0x00, 0x00, 0x00]) (unit .kenwood) = some .notDecimal ∧
    refusal (.fqDecKw [0x30, 0x30, 0x30, 0x30, 0x30, 0x30, 0x30, 0x30, 0x30, 0x34, 0x41]) (unit .kenwood) =
      some .notDecimal := by decide
/-- V17h, V17k, V17n. -/
theorem test_mode_enc : answer (.mdEncKw .rtty) (unit .kenwood) = some (.digit 6) ∧
    answer (.mdEncCiv .fskR) (unit .kenwood) = some (.code 0x08) ∧
    answer (.mdEncYae .dataUsb) (unit .kenwood) = some (.code 0x0A) := by decide
/-- V17h, V17g, V17k, and K7, I10: a code without an entry is USB. -/
theorem test_mode_dec : answer (.mdDecKw 6) (unit .kenwood) = some (.mode .fsk) ∧
    answer (.mdDecKw 0) (unit .kenwood) = some (.mode .usb) ∧
    answer (.mdDecCiv 0x04) (unit .kenwood) = some (.mode .rtty) ∧
    answer (.mdDecCiv 0xFF) (unit .kenwood) = some (.mode .usb) ∧
    answer (.mdDecYae 0x0A) (unit .kenwood) = some (.mode .dig) := by decide
/-- R101. -/
theorem test_kw_frames : sent (.kwFa 7074000) (unit .kenwood) = some
      [.txcb 1 [0x46, 0x41, 0x30, 0x30, 0x30, 0x30, 0x37, 0x30, 0x37, 0x34, 0x30, 0x30, 0x30, 0x3B]] ∧
    sent (.kwMd 6) (unit .kenwood) = some [.txcb 1 [0x4D, 0x44, 0x36, 0x3B]] ∧
    sent .kwTx (unit .elecraft) = some [.txcb 1 [0x54, 0x58, 0x3B]] ∧ sent .kwRx (idleUnit .kenwood) = some [] ∧
    sent (.elPc 5) (unit .elecraft) = some [.txcb 1 [0x50, 0x43, 0x30, 0x30, 0x35, 0x3B]] ∧
    sent (.elAn 1) (unit .elecraft) = some [.txcb 1 [0x41, 0x4E, 0x31, 0x3B]] ∧
    refusal (.elAn 3) (unit .elecraft) = some .antennaOutsideGrammar ∧ refusal .kwTx (unit .icomCiv) = some .notThisVariant := by
  decide
/-- R102. -/
theorem test_civ_frames : sent (.civFreq 0x94 145500000) (unit .icomCiv) = some
      [.txcb 1 [0xFE, 0xFE, 0x94, 0xE0, 0x05, 0x00, 0x00, 0x50, 0x45, 0x01, 0xFD]] ∧
    sent (.civMode 0x94 0x05) (unit .icomCiv) = some [.txcb 1 [0xFE, 0xFE, 0x94, 0xE0, 0x06, 0x05, 0xFD]] ∧
    sent (.civPtt 0x94 false) (unit .icomCiv) = some [.txcb 1 [0xFE, 0xFE, 0x94, 0xE0, 0x1C, 0x00, 0x00, 0xFD]] ∧
    refusal (.civPtt 0x70 false) (unit .icomCiv) = some .notThisAddress := by decide
/-- R103. -/
theorem test_yae_frames : sent (.yaeFreq 43970000) (unit .yaesuCat) = some [.txcb 1 [0x43, 0x97, 0x00, 0x00, 0x01]] ∧
    sent (.yaeMode 0x08) (unit .yaesuCat) = some [.txcb 1 [0x08, 0x00, 0x00, 0x00, 0x07]] ∧
    sent .yaePttOn (unit .yaesuCat) = some [.txcb 1 [0x00, 0x00, 0x00, 0x00, 0x08]] ∧
    sent .yaePttOff (unit .yaesuCat) = some [.txcb 1 [0x00, 0x00, 0x00, 0x00, 0x88]] := by decide
/-- V30d, V43, V44, V44b, V55. -/
theorem test_patterns : sent (.kwRsp [0x3F]) (unit .elecraft) = some [.ack 2] ∧
    sent (.civAck 0x00 0x00 []) (unit .icomCiv) = some [.ack 2] ∧ sent (.civNak 0xE0 0x94 []) (unit .icomCiv) = some [] ∧
    sent (.civOther [0xFE, 0xFE, 0xE0, 0x94]) (unit .icomCiv) = some [] ∧
    sent (.yaeRsp [0xF0, 0xF0, 0xF0, 0xF0, 0xF0]) (unit .yaesuCat) = some [.ack 2] := by decide
/-- R10, D3 by hand: 2^53 + 1 rounds to even; 1 + -1 is +0; the largest value plus itself is infinity; a NaN stays. -/
theorem test_fadd : fadd .binary64 0x4340000000000000 0x3FF0000000000000 = 0x4340000000000000 ∧
    fadd .binary64 0x3FF0000000000000 0xBFF0000000000000 = 0 ∧
    fadd .binary64 0x7FEFFFFFFFFFFFFF 0x7FEFFFFFFFFFFFFF = 0x7FF0000000000000 ∧
    fadd .binary32 0x7FC00001 0x3F800000 = 0x7FC00000 := by decide +kernel
/-- By hand: 3 * 0.5 = 1.5; -1 * 0 = -0; infinity * 0 is a NaN. -/
theorem test_fmul : fmul .binary64 0x4008000000000000 0x3FE0000000000000 = 0x3FF8000000000000 ∧
    fmul .binary64 0xBFF0000000000000 0 = 0x8000000000000000 ∧
    fmul .binary64 0x7FF0000000000000 0 = 0x7FF8000000000000 := by decide +kernel
/-- The step with the row `CAT.STOP` (op 03) placed, and with the row `TX;` placed, runs that row. -/
theorem test_step_row : (match step ((unit .kenwood).withFetchWord 8 0x03) with
      | .next t => some t.result
      | .fault _ => none
      | .refused _ => none) = some (.bool true) := by decide
theorem test_step_frame : (match step ((unit .kenwood).withFetchWord 24 0x54583B) with
      | .next t => some t.events
      | .fault _ => none
      | .refused _ => none) = some [.txcb 1 [0x54, 0x58, 0x3B]] := by decide
/-- The default tables and straps are ones the spec admits. -/
theorem test_default_straps : strapsLegal defaultStraps = true := by decide

/-! ## Witnesses: a state and operands that meet the hypotheses of each statement together -/

/-- `unit` with one request waiting. -/
def asked (v : Variant) (q : Request) : State := { unit v with agenda := [q] }

/-- `unit` with no destination. -/
def mute (v : Variant) : State := { unit v with cat := { (unit v).cat with sendCb := none } }

/-- `unit` with the serial transport for its destination. -/
def wired (v : Variant) : State := { mute v with straps := { (unit v).straps with serialPresent := true } }

/-- `unit` with a Channel stored. -/
def tuned : State := { unit .kenwood with cat := { (unit .kenwood).cat with chan := chan14, chanSet := true } }

theorem unit_legal (v : Variant) : Legal (unit v) where
  straps := by cases v <;> decide
  storage := by cases v <;> decide
  samples := by
    refine ⟨?_, ?_⟩ <;> intro x hx <;> simp [unit] at hx <;> subst hx <;> cases v <;> decide
  rxbuf := by cases v <;> exact ⟨by decide, by simp [terminator, unit, defaultStraps, Cat.constructed]⟩
  channel := by cases v <;> decide

theorem unit_idle (v : Variant) : (unit v).agenda = [] := rfl

theorem witness_StepRunsTheDecodedRequest :
    (unit .kenwood).agenda = [] ∧
    (asked .kenwood ⟨.tx, [0x54, 0x58, 0x3B]⟩).agenda = ⟨.tx, [0x54, 0x58, 0x3B]⟩ :: [] ∧
    decode .kenwood ⟨.tx, [0x54, 0x58, 0x3B]⟩ = .ok .kwTx ∧
    decode .kenwood ⟨.host, [0x2E]⟩ = .error (.unknownOperation 0x2E) := by decide

theorem witness_DecodeOfEncodeIsTheOperation :
    Instr.wellFormed (.kwFa 99999999999) = true ∧ Instr.direction (.kwFa 99999999999) ≠ .rx ∧
    Instr.wellFormed (.civAck 0xE0 0x94 []) = true ∧ Variant.icomCiv ∈ Instr.variants (.civAck 0xE0 0x94 []) := by decide

theorem witness_WireBytesHaveOneMeaning :
    decode .icomCiv ⟨.tx, [0xFE, 0xFE, 0x94, 0xE0, 0x06, 0x01, 0xFD]⟩ = .ok (.civMode 0x94 0x01) ∧
    decode .icomCiv ⟨.rx, [0xFE]⟩ = .ok (.catResp [0xFE]) ∧ decode .icomCiv ⟨.rx, [0xFD]⟩ = .ok (.civOther []) := by decide

theorem witness_DecodedOperationIsWellFormed :
    decode .kenwood ⟨.host, [0x20, 0x01, 0xFF]⟩ = .ok (.fqEncCiv 255) ∧ Direction.host ≠ .rx := by decide

theorem witness_EveryStepKeepsTheStateLegal :
    ∃ t, Legal (asked .kenwood ⟨.host, [0x11, 0x01, 0x01, 0, 0, 0, 0, 0, 0, 0xF0, 0x3F]⟩) ∧
      step (asked .kenwood ⟨.host, [0x11, 0x01, 0x01, 0, 0, 0, 0, 0, 0, 0xF0, 0x3F]⟩) = .next t :=
  have h := unit_legal .kenwood
  ⟨_, ⟨h.straps, h.storage, h.samples, h.rxbuf, h.channel⟩, rfl⟩

theorem witness_StepsKeepStrapsAndExtendTheRecord : ∃ t, step (asked .kenwood ⟨.tx, [0x54, 0x58, 0x3B]⟩) = .next t :=
  ⟨_, rfl⟩

/-- For StateElementsHaveOnlyTheirWriters: each element is changed by an operation its rule names. -/
theorem witness_StateElementsHaveOnlyTheirWriters :
    (after (.catSetch chan14) (unit .kenwood)).any (fun t => t.cat.chan ≠ (unit .kenwood).cat.chan) ∧
    (after (.catSetptt true) (unit .kenwood)).any (fun t => t.cat.tx ≠ (unit .kenwood).cat.tx) ∧
    (after .catShutdown (unit .kenwood)).any (fun t => t.cat.ready ≠ (unit .kenwood).cat.ready) ∧
    (after .catInit (idleUnit .kenwood)).any (fun t => t.cat.ready ≠ (idleUnit .kenwood).cat.ready) ∧
    (after (.catResp [0x41]) (unit .kenwood)).any (fun t => t.cat.rxbuf ≠ (unit .kenwood).cat.rxbuf) ∧
    (after (.catRegsend 9) (unit .kenwood)).any (fun t => t.cat.sendCb ≠ (unit .kenwood).cat.sendCb) ∧
    (after (.catRegack 9) (unit .kenwood)).any (fun t => t.cat.ackCb ≠ (unit .kenwood).cat.ackCb) ∧
    (after (.rsDecimate [1]) (unit .kenwood)).any (fun t => t.rsmp.hist ≠ (unit .kenwood).rsmp.hist) := by decide +kernel

theorem witness_StateElementsCoeff :
    (after (.rsConstruct 2 1) halfRate).any (fun t => t.rsmp.t = 1 ∧ t.rsmp.r = 2) ∧
    (after (.rsConstruct 1 2) { unit .kenwood with rsmp := ⟨1, 2, [0, 0], [0, 0], 0⟩ }).any
      (fun t => t.rsmp.coeff ≠ [0, 0]) := by decide +kernel

theorem witness_UnitsShareNoState :
    (∃ t, exec .rsReset (unit .kenwood) = .next t) ∧ isResampler .rsReset = true ∧
    (∃ t, exec .catStop (unit .kenwood) = .next t) ∧ isResampler .catStop = false :=
  ⟨⟨_, rfl⟩, rfl, ⟨_, rfl⟩, rfl⟩

/-- Two states with the same straps and CAT unit and different resamplers, and the other way round. -/
theorem witness_UnitsDoNotInfluenceEachOther :
    (unit .kenwood).straps = halfRate.straps ∧ (unit .kenwood).cat = halfRate.cat ∧ (unit .kenwood).rsmp ≠ halfRate.rsmp ∧
    (unit .kenwood).events = halfRate.events ∧ (unit .kenwood).freeIndex = halfRate.freeIndex ∧
    (unit .kenwood).rsmp = (mute .kenwood).rsmp ∧ (unit .kenwood).cat ≠ (mute .kenwood).cat ∧
    (unit .kenwood).straps = (mute .kenwood).straps ∧
    isResampler .catIstx = false ∧ (after .catIstx (unit .kenwood)).isSome = true ∧
    isResampler .rsReset = true ∧ (after .rsReset (unit .kenwood)).isSome = true := by decide

theorem witness_OperationsRunExactlyWhenAdmitted :
    admitted (unit .elecraft).straps (.elSetant 2) = true ∧ admitted (unit .elecraft).straps (.elSetant 3) = false := by
  decide

theorem witness_NoFrameLeavesWhenNotReady :
    (idleUnit .kenwood).cat.ready = false ∧ ∃ t, exec (.catSetptt true) (idleUnit .kenwood) = .next t := ⟨rfl, _, rfl⟩

/-- A unit whose frames go to the serial transport, one with a sink, one with no destination. -/
theorem witness_RegisteredSinkTakesEveryFrame :
    (wired .kenwood).cat.sendCb = none ∧ (wired .kenwood).straps.serialPresent = true ∧
    sent .kwTx (wired .kenwood) = some [.txser [0x54, 0x58, 0x3B]] ∧
    (unit .kenwood).cat.sendCb = some 1 ∧ sent .kwTx (unit .kenwood) = some [.txcb 1 [0x54, 0x58, 0x3B]] ∧
    (mute .kenwood).cat.sendCb = none ∧ (mute .kenwood).straps.serialPresent = false ∧
    sent .kwTx (mute .kenwood) = some [] := by decide

theorem witness_OnlyReceptionAcknowledges :
    receives .kwTx = false ∧ (∃ t, exec .kwTx (unit .kenwood) = .next t) ∧
    { unit .kenwood with cat := { (unit .kenwood).cat with ackCb := none } }.cat.ackCb = none ∧
    ∃ t, exec (.kwRsp []) { unit .kenwood with cat := { (unit .kenwood).cat with ackCb := none } } = .next t :=
  ⟨rfl, ⟨_, rfl⟩, rfl, _, rfl⟩

theorem witness_ShutdownClearsReadyOnly : ∃ t, exec .catShutdown (unit .kenwood) = .next t := ⟨_, rfl⟩

theorem witness_InitAndStopComplete : ∃ t, exec .catInit (unit .kenwood) = .next t := ⟨_, rfl⟩

theorem witness_FlagAccessorsReportTheFlags : ∃ t, exec (.catSetptt true) (unit .kenwood) = .next t := ⟨_, rfl⟩

/-- The hypotheses of the three SetChannel statements, for a variant. -/
def maySet (v : Variant) : Bool :=
  (unit v).straps.variant = v && (unit v).cat.ready && (unit v).cat.sendCb ≠ none && channelFits (unit v).straps chan14

theorem witness_KenwoodSetChannelEmitsFaThenMd : maySet .kenwood = true ∧ maySet .elecraft = true := by decide
theorem witness_IcomSetChannelEmitsFreqThenMode : maySet .icomCiv = true := by decide
theorem witness_YaesuSetChannelEmitsFreqThenMode : maySet .yaesuCat = true := by decide

/-- Both grounds, and the widest Channel. -/
theorem witness_SetChannelFailsWithoutReadyOrDestination :
    channelFits (unit .kenwood).straps ⟨255, 2 ^ 64 - 1, 2 ^ 64 - 1, .lsb, .unknown, 7, 127, 255, true⟩ = true ∧
    (idleUnit .kenwood).cat.ready = false ∧ (mute .kenwood).cat.sendCb = none ∧
    (mute .kenwood).straps.serialPresent = false := by decide

theorem witness_GetChannelReturnsTheLastAccepted :
    tuned.cat.chanSet = true ∧ tuned.cat.chan = chan14 ∧
    answer (.catSetch noChannel) tuned = some (.bool true) ∧
    answer (.catSetch noChannel) { tuned with cat := { tuned.cat with ready := false } } = some (.bool false) ∧
    (unit .kenwood).cat.chanSet = false := by decide

theorem witness_ElecraftCommandsEmitTheirFrame : (unit .elecraft).straps.variant = .elecraft := rfl

theorem witness_WhatSelectsNoOperationIsRefused :
    (asked .kenwood ⟨.host, [0x0F]⟩).agenda = ⟨.host, 0x0F :: []⟩ :: [] ∧
    ([0x0F, 0x14, 0x1F, 0x26, 0x27, 0x2E, 0xFF] : List Byte).all (fun op =>
      0x0E < op.toNat ∧ op.toNat < 0x10 ∨ 0x13 < op.toNat ∧ op.toNat < 0x20 ∨ 0x25 < op.toNat ∧ op.toNat < 0x28 ∨
        0x2D < op.toNat) = true ∧
    (unit .kenwood).straps.variant ≠ .elecraft ∧ (unit .elecraft).straps.variant = .elecraft ∧ (3 : Byte) ≠ 1 ∧
    (3 : Byte) ≠ 2 ∧ (0 : Byte) ≠ 1 := by decide

theorem witness_AsciiFramesAreEmittedByteForByte :
    (unit .kenwood).straps.variant = .kenwood ∧ (unit .elecraft).straps.variant = .elecraft ∧ (2 : Fin 10) ≠ 1 := by decide

theorem witness_CivFramesAreEmittedByteForByte : (unit .icomCiv).straps.variant = .icomCiv := rfl
theorem witness_YaesuFramesAreEmittedByteForByte : (unit .yaesuCat).straps.variant = .yaesuCat := rfl

theorem witness_EmittedFramesHaveOneTerminator : (0x94 : Byte) ≠ 0xFD ∧ (0x01 : Byte) ≠ 0xFD ∧
    civModeFrame 0x94 0x01 ∈ [civFreqFrame 0x94 0, civModeFrame 0x94 0x01, civPttFrame 0x94 true] := by decide

theorem witness_SemicolonsAcknowledge :
    (unit .kenwood).straps.variant = .kenwood ∧ (unit .kenwood).cat.ackCb = some 2 := ⟨rfl, rfl⟩

theorem witness_EndMarkerInspectsTheCivBuffer :
    (unit .icomCiv).straps.variant = .icomCiv ∧
    (guarded .beforeTest).straps.rxGuard.place = .beforeTest ∧ overCap (guarded .beforeTest).straps (255 + 1) = false ∧
    overCap (guarded .beforeTest).straps (256 + 1) = true ∧
    sent (.catResp [0xFD]) { unit .icomCiv with cat := { (unit .icomCiv).cat with
      rxbuf := [0xFE, 0xFE, 0xE0, 0x94, 0xFB] } } = some [.ack 2] ∧
    sent (.catResp [0xFD]) { unit .icomCiv with cat := { (unit .icomCiv).cat with rxbuf := [0xFE, 0xFE, 0xE0, 0x94] } } =
      some [] := by decide

theorem witness_KenwoodResponseAcknowledgesOnce :
    (unit .elecraft).straps.variant = .elecraft ∧ Instr.wellFormed (.kwRsp (List.replicate 300 0x41)) = true := by
  decide +kernel

/-- Each clause, at the cap: 256 bytes before the end marker. -/
theorem witness_WholeCivFramesAcknowledgeOnAckOnly :
    (unit .icomCiv).straps.variant = .icomCiv ∧ (unit .icomCiv).cat.rxbuf = [] ∧
    Instr.wellFormed (.civAck 0xE0 0x94 (List.replicate 251 0)) = true ∧
    Instr.wellFormed (.civNak 0xE0 0x94 (List.replicate 251 0)) = true ∧
    Instr.wellFormed (.civOther (List.replicate 256 0)) = true ∧
    overCap (unit .icomCiv).straps (5 + (List.replicate 251 (0 : Byte)).length) = false ∧
    overCap (unit .icomCiv).straps (List.replicate 256 (0 : Byte)).length = false ∧
    (unit .icomCiv).straps.rxGuard.place ≠ .beforeTest := by decide +kernel

/-- The same with the guard before the terminator test, at its own boundary, and at the end of a call, beyond the cap. -/
theorem witness_WholeCivFramesPlacements :
    Instr.wellFormed (.civAck 0xE0 0x94 (List.replicate 250 0)) = true ∧
    (guarded .beforeTest).straps.rxGuard.place = .beforeTest ∧
    overCap (guarded .beforeTest).straps (6 + (List.replicate 250 (0 : Byte)).length) = false ∧
    overCap (guarded .beforeTest).straps (6 + (List.replicate 251 (0 : Byte)).length) = true ∧
    (guarded .callEnd).straps.rxGuard.place = .callEnd ∧
    Instr.wellFormed (.civAck 0xE0 0x94 (List.replicate 300 0)) = true := by decide +kernel

theorem witness_YaesuReceiptAcknowledgesOnce :
    (unit .yaesuCat).straps.variant = .yaesuCat ∧ ([0x00] : List Byte) ≠ [] := by decide

theorem witness_OverflowGuardClearsSilently :
    terminator (unit .kenwood).straps.variant = some 0x3B ∧ terminator (unit .icomCiv).straps.variant = some 0xFD ∧
    (0x3B : Byte) ∉ ([0x41] : List Byte) ∧ overCap (unit .kenwood).straps 256 = false ∧
    overCap (unit .kenwood).straps 257 = true := by decide

theorem witness_ReceptionDependsOnTheConcatenation :
    (unit .icomCiv).straps.variant ≠ .yaesuCat ∧ (unit .icomCiv).straps.rxGuard.place ≠ .callEnd ∧
    (guarded .callEnd).straps.variant ≠ .yaesuCat ∧
    overCap (guarded .callEnd).straps ((guarded .callEnd).cat.rxbuf.length + ([0xFE, 0xFE] : List Byte).length) = false ∧
    (∃ t, exec (.catResp [0xFE, 0xFE]) (unit .icomCiv) = .next t) ∧
    ∃ t, exec (.catResp [0xFE, 0xFE]) (guarded .callEnd) = .next t :=
  ⟨by decide, by decide, by decide, by decide, ⟨_, rfl⟩, _, rfl⟩

theorem witness_FrequencyEncodersGiveTheirDigits : 2 ^ 64 - 1 < 2 ^ (unit .kenwood).straps.freqW := by decide

/-- The largest and the smallest digits of each decoder, and a field outside each. -/
theorem witness_FrequencyDecodersSumTheirDigits :
    37 ≤ (unit .kenwood).straps.freqW ∧ ([0x99, 0x99, 0x99, 0x99, 0x99] : List Byte).all isBcd = true ∧
    ([0x00, 0x00, 0x00, 0x00] : List Byte).all isBcd = true ∧ (List.replicate 11 (0x39 : Byte)).all isAscDigit = true ∧
    (List.replicate 11 (0x30 : Byte)).length = 11 ∧ ([0x0A, 0, 0, 0, 0] : List Byte).all isBcd = false ∧
    ([0xA0, 0, 0, 0] : List Byte).all isBcd = false ∧ ([0x3A] : List Byte).all isAscDigit = false := by decide

theorem witness_FrequencyRoundTrips :
    37 ≤ (unit .kenwood).straps.freqW ∧ decCiv [0x99, 0x99, 0x99, 0x99, 0x99] = some 9999999999 ∧
    decYae [0x99, 0x99, 0x99, 0x99] = some 999999990 ∧ decKw (List.replicate 11 0x39) = some 99999999999 := by decide

/-- A mode without an entry in each table. -/
theorem witness_ModeEncodersObeyTheTables :
    strapsLegal (unit .kenwood).straps = true ∧ isMapped (unit .kenwood).straps.kwModeCode .unknown = false ∧
    isMapped (unit .kenwood).straps.civModeCode .unknown = false ∧
    isMapped (unit .kenwood).straps.yaeModeCode .unknown = false := by decide

/-- A code without an entry in each table. -/
theorem witness_ModeDecodersUndoTheEncoders :
    strapsLegal (unit .icomCiv).straps = true ∧ (unit .icomCiv).straps.kwModeRev.lookup 0 = none ∧
    (0xFF : Byte) ∉ ([.lsb, .usb, .am, .cw, .fm, .rtty, .fskR] : List RadioMode).map
      (encodeMode (unit .icomCiv).straps.civModeCode) ∧
    (unit .icomCiv).straps.yaeModeRev.lookup 0xFF = none := by decide

/-- A ratio and taps inside the bounds and outside them; a vector that the parameter holds, and none held. -/
theorem witness_ConstructBuildsAZeroedResampler :
    strapsLegal { defaultStraps with coeffTable := [⟨1, 2, [0, 0x3FF0000000000000]⟩] } = true ∧
    coeffFor { defaultStraps with coeffTable := [⟨1, 2, [0, 0x3FF0000000000000]⟩] } 1 2 = [0, 0x3FF0000000000000] ∧
    (unit .kenwood).straps.coeffTable = [] ∧
    strapsLegal (unit .kenwood).straps = true ∧ (1 ≤ 1 ∧ 1 ≤ 2 ∧ 2 ≤ 1 * 2) ∧ (1 ≤ 2 ∧ 1 ≤ 1 ∧ 2 ≤ 2 * 1) ∧
    ¬ (1 ≤ 1 ∧ 1 ≤ 1 ∧ 2 ≤ 1 * 1) ∧ ¬ (1 ≤ 0 ∧ 1 ≤ 8 ∧ 2 ≤ 0 * 8) := by decide +kernel

theorem witness_DecimatePushesAndOutputsEveryRth :
    storageLegal halfRate.rsmp ∧
      ([0x3FF0000000000000, 0, 0] : List Sample).all (sampleFits halfRate.straps.fp) = true := by decide

theorem witness_InterpolateStuffsZerosAndOutputsEach :
    storageLegal halfRate.rsmp ∧ ([0x3FF0000000000000] : List Sample).all (sampleFits halfRate.straps.fp) = true := by
  decide

theorem witness_ResetZeroesHistoryAndPosition : ∃ t, exec .rsReset halfRate = .next t := ⟨_, rfl⟩

theorem witness_ResetThenZeroInputGivesZeroOutput :
    storageLegal halfRate.rsmp ∧ (halfRate.rsmp.coeff.all fun c => isFinite halfRate.straps.fp c) = true ∧
    (after .rsReset halfRate).isSome = true ∧
    isFinite halfRate.straps.fp (fofint halfRate.straps.fp halfRate.rsmp.r) = true := by decide +kernel

theorem witness_FilterReadsTheLastNValuesOldestFirst :
    storageLegal halfRate.rsmp ∧ ([1, 2] : List Sample).length = totalTaps halfRate.rsmp := by decide

theorem witness_SplittingCallsAtTheGridChangesNothing :
    storageLegal halfRate.rsmp ∧ ([0, 0] : List Sample).length % halfRate.rsmp.r = 0 ∧
    (∃ t, exec (.rsInterp ([0] ++ [0])) halfRate = .next t) ∧
    ∃ t, exec (.rsDecimate ([0, 0] ++ [0, 0])) halfRate = .next t := ⟨by decide, by decide, ⟨_, rfl⟩, _, rfl⟩

/-- A NaN in the history, and V67a's claim on it. -/
theorem witness_NanInTheHistoryReachesTheOutput :
    storageLegal (⟨1, 2, [0, 0], [0x7FF8000000000001, 0], 0⟩ : FirState Sample) ∧
    fpUnpack .binary64 0x7FF8000000000001 = .nan ∧
    fir (fpArith .binary64) ⟨1, 2, [0, 0], [0x7FF8000000000001, 0], 0⟩ = fpNan .binary64 := by decide +kernel

theorem witness_ExactFilterIsLinear :
    ([1, 2] : List ℚ).length = 2 * 1 ∧ ([3, 4] : List ℚ).length = 2 * 1 ∧ ([5] : List ℚ).length = ([6] : List ℚ).length := by
  decide

theorem witness_ExactDcGainIsTheCoefficientSum :
    storageLegal (⟨2, 1, [1, 2], [0, 0], 1⟩ : FirState ℚ) ∧ totalTaps (⟨2, 1, [1, 2], [0, 0], 1⟩ : FirState ℚ) ≤ 2 := by
  decide

/-- A tie: 2^53 + 1 lies as far from the sum's rounding 2^53 as from 2^53 + 2, and 3 * 2^-1074 * 0.5 as far from
2^-1073 as from 2^-1074. -/
theorem witness_RoundingTies :
    unitsOf .binary64 0x4340000000000001 ≠ unitsOf .binary64 (fadd .binary64 0x4340000000000000 0x3FF0000000000000) ∧
    (unitsOf .binary64 (fadd .binary64 0x4340000000000000 0x3FF0000000000000) -
        (unitsOf .binary64 0x4340000000000000 + unitsOf .binary64 0x3FF0000000000000)).natAbs =
      (unitsOf .binary64 0x4340000000000001 -
        (unitsOf .binary64 0x4340000000000000 + unitsOf .binary64 0x3FF0000000000000)).natAbs ∧
    fmul .binary64 0x0000000000000003 0x3FE0000000000000 = 0x0000000000000002 ∧
    (unitsOf .binary64 2 * 2 ^ fpScale .binary64 - unitsOf .binary64 3 * unitsOf .binary64 0x3FE0000000000000).natAbs =
      (unitsOf .binary64 1 * 2 ^ fpScale .binary64 - unitsOf .binary64 3 * unitsOf .binary64 0x3FE0000000000000).natAbs := by
  decide +kernel

/-- The boundary: the largest finite value of each format, plus 0. -/
theorem witness_AdditionRoundsToNearest :
    isFinite .binary32 0x7F7FFFFF = true ∧ isFinite .binary32 0 = true ∧
    (unitsOf .binary32 0x7F7FFFFF + unitsOf .binary32 0).natAbs ≤
      (2 ^ fpPrec .binary32 - 1) * 2 ^ (fpExpMax .binary32 - 2) ∧
    isFinite .binary64 0x7FEFFFFFFFFFFFFF = true ∧
    (unitsOf .binary64 0x7FEFFFFFFFFFFFFF + unitsOf .binary64 0).natAbs ≤
      (2 ^ fpPrec .binary64 - 1) * 2 ^ (fpExpMax .binary64 - 2) := by decide +kernel

/-- The boundary: the largest finite value times 1. -/
theorem witness_MultiplicationRoundsToNearest :
    isFinite .binary32 0x7F7FFFFF = true ∧ isFinite .binary32 0x3F800000 = true ∧
    (unitsOf .binary32 0x7F7FFFFF * unitsOf .binary32 0x3F800000).natAbs ≤
      (2 ^ fpPrec .binary32 - 1) * 2 ^ (fpExpMax .binary32 - 2) * 2 ^ fpScale .binary32 := by decide +kernel

end Sys2Proof.Tests
end

section
/-! SUPPORT. What an operation does, said once for all of them: whether it goes on is a function of the straps, and what it
does a function of the straps and of the unit it belongs to (R2, R20). -/

namespace Sys2Proof.Machine

/-! ### What an operation may be -/

/-- The operation goes on in the state `next s` where the straps allow it, and is refused where they do not. -/
def RunsAs (admits : Straps → Bool) (next : State → State) (op : State → Host.Outcome State Fault Refusal) : Prop :=
  ∀ s, (admits s.straps = true → op s = .next (next s)) ∧ (admits s.straps = false → ∃ r, op s = .refused r)

/-- What an operation of the CAT unit computes: the unit after it, the outputs it adds, its result. -/
structure CatMeaning where
  cat : Straps → Cat → Cat
  outputs : Straps → Cat → List Event
  result : Straps → Cat → Nat → Result

/-- The state after an operation of the CAT unit. -/
def CatMeaning.next (m : CatMeaning) (s : State) : State :=
  { s with
    cat := m.cat s.straps s.cat
    events := s.events ++ m.outputs s.straps s.cat
    result := m.result s.straps s.cat s.freeIndex }

/-- What an operation of the RSMP unit computes: the unit after it, its result. -/
structure RsmpMeaning where
  rsmp : Straps → FirState Sample → FirState Sample
  result : Straps → FirState Sample → Result

/-- The state after an operation of the RSMP unit. -/
def RsmpMeaning.next (m : RsmpMeaning) (s : State) : State :=
  { s with rsmp := m.rsmp s.straps s.rsmp, result := m.result s.straps s.rsmp }

/-- The operation reads and writes the CAT unit and the outputs only. -/
def ActsOnCat (admits : Straps → Bool) (op : State → Host.Outcome State Fault Refusal) : Prop :=
  ∃ m : CatMeaning, RunsAs admits m.next op

/-- The operation reads and writes the RSMP unit only. -/
def ActsOnRsmp (admits : Straps → Bool) (op : State → Host.Outcome State Fault Refusal) : Prop :=
  ∃ m : RsmpMeaning, RunsAs admits m.next op

section
variable {admits admits' : Straps → Bool} {next : State → State} {op op' : State → Host.Outcome State Fault Refusal}

/-- An operation that goes on was admitted, and its state is the one it runs to. -/
theorem RunsAs.eq_of_next (h : RunsAs admits next op) {s t : State} (ht : op s = .next t) :
    admits s.straps = true ∧ t = next s := by
  cases ha : admits s.straps
  · obtain ⟨r, hr⟩ := (h s).2 ha
    rw [hr] at ht
    cases ht
  · rw [(h s).1 ha] at ht
    cases ht
    exact ⟨rfl, rfl⟩

/-- A test of the straps whose failure refuses. -/
theorem RunsAs.guarded (h : RunsAs admits next op) (P : Straps → Prop) [DecidablePred P] {r : Refusal}
    (ha : ∀ p, admits' p = (decide (P p) && admits p)) :
    RunsAs admits' next fun s => if P s.straps then op s else .refused r := by
  intro s
  by_cases hp : P s.straps
  · simpa [hp, ha] using h s
  · simp [hp, ha]

/-- A test of the straps whose success refuses. -/
theorem RunsAs.unless (h : RunsAs admits next op) (P : Straps → Prop) [DecidablePred P] {r : Refusal}
    (ha : ∀ p, admits' p = (!decide (P p) && admits p)) :
    RunsAs admits' next fun s => if P s.straps then .refused r else op s := by
  intro s
  by_cases hp : P s.straps
  · simp [hp, ha]
  · simpa [hp, ha] using h s

/-- A choice by the CAT unit's state between two operations of it. -/
theorem ActsOnCat.choose (h : ActsOnCat admits op) (h' : ActsOnCat admits op') (P : Straps → Cat → Prop)
    [∀ p c, Decidable (P p c)] : ActsOnCat admits fun s => if P s.straps s.cat then op s else op' s := by
  obtain ⟨m, hm⟩ := h
  obtain ⟨m', hm'⟩ := h'
  refine ⟨⟨fun p c => if P p c then m.cat p c else m'.cat p c, fun p c => if P p c then m.outputs p c else m'.outputs p c,
    fun p c n => if P p c then m.result p c n else m'.result p c n⟩, fun s => ?_⟩
  by_cases hp : P s.straps s.cat
  · simpa [hp, CatMeaning.next] using hm s
  · simpa [hp, CatMeaning.next] using hm' s

end

/-! ### Updates of the CAT unit -/

/-- The update reads the straps and the CAT unit, and writes the CAT unit and the end of the record of outputs. -/
def CatUpdate (g : State → State) : Prop :=
  ∃ (cat : Straps → Cat → Cat) (outputs : Straps → Cat → List Event),
    ∀ s, g s = { s with cat := cat s.straps s.cat, events := s.events ++ outputs s.straps s.cat }

/-- An update that writes the CAT unit only. -/
theorem CatUpdate.ofCat (cat : Straps → Cat → Cat) : CatUpdate fun s => { s with cat := cat s.straps s.cat } :=
  ⟨cat, fun _ _ => [], by simp⟩

/-- An update that adds outputs only. -/
theorem CatUpdate.ofOutputs (outputs : Straps → Cat → List Event) :
    CatUpdate fun s => { s with events := s.events ++ outputs s.straps s.cat } :=
  ⟨fun _ c => c, outputs, by simp⟩

theorem CatUpdate.of_eq {g h : State → State} (hg : CatUpdate g) (e : ∀ s, h s = g s) : CatUpdate h := by
  obtain ⟨cat, outputs, eg⟩ := hg
  exact ⟨cat, outputs, fun s => (e s).trans (eg s)⟩

theorem CatUpdate.id : CatUpdate fun s => s := .ofCat fun _ c => c

theorem CatUpdate.comp {g h : State → State} (hh : CatUpdate h) (hg : CatUpdate g) : CatUpdate fun s => h (g s) := by
  obtain ⟨cat, outputs, eg⟩ := hg
  obtain ⟨cat', outputs', eh⟩ := hh
  exact ⟨fun p c => cat' p (cat p c), fun p c => outputs p c ++ outputs' p (cat p c), fun s => by simp [eg, eh]⟩

theorem CatUpdate.choose {g h : State → State} (hg : CatUpdate g) (hh : CatUpdate h) (P : Straps → Cat → Prop)
    [∀ p c, Decidable (P p c)] : CatUpdate fun s => if P s.straps s.cat then g s else h s := by
  obtain ⟨cat, outputs, eg⟩ := hg
  obtain ⟨cat', outputs', eh⟩ := hh
  refine ⟨fun p c => if P p c then cat p c else cat' p c, fun p c => if P p c then outputs p c else outputs' p c,
    fun s => ?_⟩
  by_cases hp : P s.straps s.cat
  · simp [hp, eg]
  · simp [hp, eh]

theorem CatUpdate.foldl {f : State → Byte → State} (hf : ∀ b, CatUpdate fun s => f s b) (bytes : List Byte) :
    CatUpdate fun s => bytes.foldl f s := by
  induction bytes with
  | nil => exact .id
  | cons b bs ih => exact ih.comp (hf b)

theorem emit_catUpdate (frame : Straps → Frame) : CatUpdate fun s => emit s (frame s.straps) :=
  (CatUpdate.ofOutputs fun p c => match c.sendCb with
    | some sink => [.txcb sink (frame p)]
    | none => if p.serialPresent then [.txser (frame p)] else []).of_eq fun s => emit_eq s (frame s.straps)

theorem emitIfReady_catUpdate (frame : Straps → Frame) : CatUpdate fun s => emitIfReady s (frame s.straps) :=
  (emit_catUpdate frame).choose .id fun _ c => c.ready = true

theorem ack_catUpdate : CatUpdate ack :=
  (CatUpdate.ofOutputs fun _ c => match c.ackCb with
    | some cb => [.ack cb]
    | none => []).of_eq ack_eq

theorem rxClear_catUpdate : CatUpdate rxClear := .ofCat fun _ c => { c with rxbuf := [] }

theorem rxAppend_catUpdate (b : Byte) : CatUpdate fun s => rxAppend s b :=
  .ofCat fun _ c => { c with rxbuf := c.rxbuf ++ [b] }

theorem guardAt_catUpdate (place : GuardPlace) : CatUpdate fun s => guardAt s place :=
  (rxClear_catUpdate.choose .id fun p c => overCap p c.rxbuf.length = true).choose .id fun p _ => p.rxGuard.place = place

theorem rxTake_catUpdate (b : Byte) : CatUpdate fun s => rxTake s b :=
  (guardAt_catUpdate .beforeTest).comp (rxAppend_catUpdate b)

theorem kwRxByte_catUpdate (b : Byte) : CatUpdate fun s => kwRxByte s b :=
  ((rxClear_catUpdate.comp ack_catUpdate).comp (rxTake_catUpdate b)).choose
    ((guardAt_catUpdate .afterTest).comp (rxTake_catUpdate b)) fun _ _ => b = kwTerm

theorem civRxByte_catUpdate (b : Byte) : CatUpdate fun s => civRxByte s b := by
  have hinspect : CatUpdate fun s => if civAcknowledges s.cat.rxbuf = true then rxClear (ack s) else rxClear s :=
    (rxClear_catUpdate.comp ack_catUpdate).choose rxClear_catUpdate fun _ c => civAcknowledges c.rxbuf = true
  exact (hinspect.comp (rxTake_catUpdate b)).choose ((guardAt_catUpdate .afterTest).comp (rxTake_catUpdate b))
    fun _ _ => b = civEom

/-- The receptions of the variants one after the other, as choices by the strap. -/
theorem receive_catUpdate (bytes : List Byte) : CatUpdate fun s => receive s bytes := by
  have hkw := (guardAt_catUpdate .callEnd).comp (.foldl kwRxByte_catUpdate bytes)
  have hciv := (guardAt_catUpdate .callEnd).comp (.foldl civRxByte_catUpdate bytes)
  have hyae : CatUpdate fun s => if bytes = [] then s else ack s := CatUpdate.id.choose ack_catUpdate fun _ _ => bytes = []
  have hciv_or_yae := hciv.choose hyae fun p _ => p.variant = .icomCiv
  refine (hkw.choose hciv_or_yae fun p _ => p.variant = .kenwood ∨ p.variant = .elecraft).of_eq fun s => ?_
  unfold receive
  split <;> next hv => simp [hv]

/-! ### The shared forms of an operation -/

section
variable {admits : Straps → Bool}

/-- An update of the CAT unit and then the result. -/
theorem CatUpdate.finish {g : State → State} (hg : CatUpdate g) (result : Straps → Cat → Nat → Result) :
    ActsOnCat (fun _ => true) fun s => Machine.finish (g s) (result s.straps s.cat s.freeIndex) := by
  obtain ⟨cat, outputs, eg⟩ := hg
  exact ⟨⟨cat, outputs, result⟩, fun s => ⟨fun _ => by simp [Machine.finish, eg, State.setResult, CatMeaning.next], nofun⟩⟩

theorem ActsOnCat.guarded {op : State → Host.Outcome State Fault Refusal} (h : ActsOnCat (fun _ => true) op)
    (P : Straps → Prop) [DecidablePred P] {r : Refusal} (ha : ∀ p, admits p = decide (P p)) :
    ActsOnCat admits fun s => if P s.straps then op s else .refused r :=
  h.imp fun _ hm => hm.guarded P fun p => by simp [ha]

theorem emitRow_actsOnCat (vs : List Variant) (frame : Straps → Frame) (ha : ∀ p, admits p = decide (p.variant ∈ vs)) :
    ActsOnCat admits fun s => emitRow s vs (frame s.straps) :=
  ((emitIfReady_catUpdate frame).finish fun _ _ _ => .void).guarded (fun p => p.variant ∈ vs) ha

/-- A frame whose operand the straps may rule out. -/
theorem emitRow_unless_actsOnCat (vs : List Variant) (frame : Frame) (P : Straps → Prop) [DecidablePred P] {r : Refusal}
    (ha : ∀ p, admits p = (!decide (P p) && decide (p.variant ∈ vs))) :
    ActsOnCat admits fun s => if P s.straps then .refused r else emitRow s vs frame :=
  (emitRow_actsOnCat vs (fun _ => frame) fun _ => rfl).imp fun _ hm => hm.unless P ha

theorem emitCivRow_actsOnCat (rr : Byte) (frame : Frame)
    (ha : ∀ p, admits p = (decide (p.variant = .icomCiv) && decide (rr = p.civRadioAddr))) :
    ActsOnCat admits fun s => emitCivRow s rr frame :=
  emitRow_unless_actsOnCat [.icomCiv] frame (fun p => p.variant = .icomCiv ∧ rr ≠ p.civRadioAddr) fun p => by
    by_cases hv : p.variant = .icomCiv <;> simp [ha, hv]

theorem encodeFrequency_actsOnCat (f : Nat) (bytes : List Byte) :
    ActsOnCat (fun p => freqFits p f) fun s => encodeFrequency s f bytes :=
  (CatUpdate.id.finish fun _ _ _ => .bytes bytes).guarded (fun p => freqFits p f = true) fun p => by simp

theorem decodeFrequency_actsOnCat (o : Option Nat) :
    ActsOnCat (fun p => decodedFits p o) fun s => decodeFrequency s o := by
  cases o with
  | none => exact (CatUpdate.id.finish fun _ _ _ => .void).imp fun _ _ s => ⟨nofun, fun _ => ⟨_, rfl⟩⟩
  | some f =>
    exact (CatUpdate.id.finish fun _ _ _ => .frequency f).guarded (fun p => freqFits p f = true) fun p => by
      simp [decodedFits]

theorem receive_actsOnCat (bytes : List Byte) :
    ActsOnCat (fun _ => true) fun s => finish (receive s bytes) .void :=
  (receive_catUpdate bytes).finish fun _ _ _ => .void

/-- CAT.SETCH: a choice between storing the Channel after its two frames and a failure that changes nothing. -/
theorem execCatSetch_actsOnCat (c : Channel) : ActsOnCat (fun p => channelFits p c) (execCatSetch c) := by
  have hstore : CatUpdate fun s =>
      (emit (emit s (freqFrame s.straps c.rxFrequency)) (modeFrame s.straps c.rxMode)).setChan c := by
    have hframes :=
      (emit_catUpdate fun p => modeFrame p c.rxMode).comp (emit_catUpdate fun p => freqFrame p c.rxFrequency)
    have hchan : CatUpdate fun s => s.setChan c := .ofCat fun _ old => { old with chan := c, chanSet := true }
    simpa only [emit_straps] using hchan.comp hframes
  exact ((hstore.finish fun _ _ _ => .bool true).choose (CatUpdate.id.finish fun _ _ _ => .bool false)
    fun p c => (c.ready && (c.sendCb.isSome || p.serialPresent)) = true).guarded
    (fun p => channelFits p c = true) fun p => by simp

end

/-! ### Every operation -/

/-- An operation of the CAT unit or a pure function: it runs where admitted, and reads and writes the CAT unit only. -/
theorem exec_actsOnCat {i : Instr} (hi : isResampler i = false) : ActsOnCat (fun p => admitted p i) (exec i) := by
  have returns (result : Straps → Cat → Nat → Result) := CatUpdate.id.finish result
  have writes (cat : Straps → Cat → Cat) (result : Straps → Cat → Nat → Result) := (CatUpdate.ofCat cat).finish result
  cases i with
  | catInit => exact writes (fun _ c => { c with rxbuf := [], ready := true }) fun _ _ _ => .bool true
  | catShutdown => exact writes (fun _ c => { c with ready := false }) fun _ _ _ => .void
  | catStart => exact returns fun _ c _ => .bool c.ready
  | catStop => exact returns fun _ _ _ => .bool true
  | catSetch c => exact execCatSetch_actsOnCat c
  | catGetch =>
    exact (returns fun _ c _ => .channel c.chan).choose (returns fun _ _ n => .channel (Config.unspecifiedChannel n))
      fun _ c => c.chanSet = true
  | catSetptt b =>
    exact ((CatUpdate.ofCat fun _ c => { c with tx := b }).comp (emitIfReady_catUpdate fun p => pttFrame p b)).finish
      fun _ _ _ => .void
  | catIstx => exact returns fun _ c _ => .bool c.tx
  | catIsrdy => exact returns fun _ c _ => .bool c.ready
  | catPortcfg => exact returns fun p _ _ => .text (portConfigText (portConfig p.variant))
  | catRegsend sink => exact writes (fun _ c => { c with sendCb := some sink }) fun _ _ _ => .void
  | catRegack cb => exact writes (fun _ c => { c with ackCb := some cb }) fun _ _ _ => .void
  | catResp bytes => exact receive_actsOnCat bytes
  | elSetpwr watts =>
    exact ((emitIfReady_catUpdate fun _ => elPcFrame watts).finish fun _ _ _ => .void).guarded
      (fun p => p.variant = .elecraft) fun _ => rfl
  | elSetant antenna =>
    have hemit := (emitIfReady_catUpdate fun _ => elAnFrame antenna.toNat).finish fun _ _ _ => .void
    obtain ⟨m, hm⟩ := hemit.guarded (r := .antennaOutsideGrammar) (fun _ => antenna = 1 ∨ antenna = 2) fun _ => rfl
    exact ⟨m, hm.guarded (fun p => p.variant = .elecraft) fun p => by simp [admitted]⟩
  | rsConstruct r t => cases hi
  | rsDecimate input => cases hi
  | rsInterp input => cases hi
  | rsReset => cases hi
  | fqEncCiv f => exact encodeFrequency_actsOnCat f _
  | fqDecCiv bytes => exact decodeFrequency_actsOnCat _
  | fqEncYae f => exact encodeFrequency_actsOnCat f _
  | fqDecYae bytes => exact decodeFrequency_actsOnCat _
  | fqEncKw f => exact encodeFrequency_actsOnCat f _
  | fqDecKw bytes => exact decodeFrequency_actsOnCat _
  | mdEncKw m => exact returns fun p _ _ => .digit (encodeMode p.kwModeCode m)
  | mdDecKw d => exact returns fun p _ _ => .mode (decodeMode p.kwModeRev d)
  | mdEncCiv m => exact returns fun p _ _ => .code (encodeMode p.civModeCode m)
  | mdDecCiv code => exact returns fun p _ _ => .mode (decodeMode p.civModeRev code)
  | mdEncYae m => exact returns fun p _ _ => .code (encodeMode p.yaeModeCode m)
  | mdDecYae code => exact returns fun p _ _ => .mode (decodeMode p.yaeModeRev code)
  | kwFa f => exact emitRow_actsOnCat _ (fun _ => kwFaFrame f) fun p => by simp [admitted]
  | kwMd code => exact emitRow_actsOnCat _ (fun _ => kwMdFrame code) fun p => by simp [admitted]
  | kwTx => exact emitRow_actsOnCat _ (fun _ => kwTxFrame) fun p => by simp [admitted]
  | kwRx => exact emitRow_actsOnCat _ (fun _ => kwRxFrame) fun p => by simp [admitted]
  | elPc watts => exact emitRow_actsOnCat _ (fun _ => elPcFrame watts) fun p => by simp [admitted]
  | elAn antenna =>
    refine emitRow_unless_actsOnCat _ _ (fun p => p.variant = .elecraft ∧ antenna ≠ 1 ∧ antenna ≠ 2) fun p => ?_
    by_cases hv : p.variant = .elecraft <;> simp [admitted, hv]
  | civFreq rr f => exact emitCivRow_actsOnCat rr _ fun _ => rfl
  | civMode rr mm => exact emitCivRow_actsOnCat rr _ fun _ => rfl
  | civPtt rr p => exact emitCivRow_actsOnCat rr _ fun _ => rfl
  | yaeFreq q => exact emitRow_actsOnCat _ (fun _ => yaeFreqFrame q) fun p => by simp [admitted]
  | yaeMode mm => exact emitRow_actsOnCat _ (fun _ => yaeModeFrame mm) fun p => by simp [admitted]
  | yaePttOn => exact emitRow_actsOnCat _ (fun p => yae5Frame p.yaePttOn) fun p => by simp [admitted]
  | yaePttOff => exact emitRow_actsOnCat _ (fun p => yae5Frame p.yaePttOff) fun p => by simp [admitted]
  | kwRsp before => exact receive_actsOnCat _
  | civAck x y rest => exact receive_actsOnCat _
  | civNak x y rest => exact receive_actsOnCat _
  | civOther before => exact receive_actsOnCat _
  | yaeRsp bytes => exact receive_actsOnCat bytes

/-- An operation of the RSMP unit: it runs where admitted, and reads and writes the RSMP unit only. -/
theorem exec_actsOnRsmp {i : Instr} (hi : isResampler i = true) : ActsOnRsmp (fun p => admitted p i) (exec i) := by
  have runs (m : RsmpMeaning) :
      RunsAs (fun _ => true) m.next fun s => finish (s.setRsmp (m.rsmp s.straps s.rsmp)) (m.result s.straps s.rsmp) :=
    fun s => ⟨fun _ => rfl, nofun⟩
  cases i with
  | rsConstruct r t =>
    exact ⟨_, (runs ⟨fun p _ => firNew (fpArith p.fp) r t (coeffFor p r t), fun _ _ => .void⟩).guarded
      (fun _ => 1 ≤ r ∧ 1 ≤ t ∧ 2 ≤ r * t) fun p => by simp [admitted, Bool.and_assoc]⟩
  | rsDecimate input =>
    exact ⟨_, (runs ⟨fun p u => (decimate (fpArith p.fp) u input).1,
      fun p u => .samples (decimate (fpArith p.fp) u input).2⟩).guarded
      (fun p => input.all (sampleFits p.fp) = true) fun p => by
        simp only [admitted, Bool.decide_eq_true, Bool.and_true]⟩
  | rsInterp input =>
    exact ⟨_, (runs ⟨fun p u => (interpolate (fpArith p.fp) u input).1,
      fun p u => .samples (interpolate (fpArith p.fp) u input).2⟩).guarded
      (fun p => input.all (sampleFits p.fp) = true) fun p => by
        simp only [admitted, Bool.decide_eq_true, Bool.and_true]⟩
  | rsReset => exact ⟨_, runs ⟨fun p u => firReset (fpArith p.fp) u, fun _ _ => .void⟩⟩
  | _ => cases hi

/-- No operation writes a strap, the agenda or the index of the free Channel, and each only adds to the record. -/
theorem exec_frame {i : Instr} {s t : State} (h : exec i s = .next t) :
    t.straps = s.straps ∧ s.events <+: t.events ∧ t.agenda = s.agenda ∧ t.freeIndex = s.freeIndex := by
  cases hi : isResampler i
  · obtain ⟨m, hm⟩ := exec_actsOnCat hi
    obtain ⟨-, rfl⟩ := hm.eq_of_next h
    exact ⟨rfl, List.prefix_append _ _, rfl, rfl⟩
  · obtain ⟨m, hm⟩ := exec_actsOnRsmp hi
    obtain ⟨-, rfl⟩ := hm.eq_of_next h
    exact ⟨rfl, List.prefix_rfl, rfl, rfl⟩

/-! ### The obligations -/

/-- Settles O1: the three cases of a step. -/
theorem stepRunsTheDecodedRequest : Obligations.StepRunsTheDecodedRequest := fun _ =>
  ⟨step_idle, fun _ _ h => ⟨fun _ => step_op h, fun _ => step_bad h⟩⟩

/-- Settles O9: a step is idle, or an operation on the state without the request, whose frame is `exec_frame`. -/
theorem stepsKeepStrapsAndExtendTheRecord : Obligations.StepsKeepStrapsAndExtendTheRecord := by
  intro s t h
  obtain ⟨hnil, rfl⟩ | ⟨q, rest, i, ha, -, hexec⟩ := step_cases h
  · exact ⟨rfl, List.prefix_rfl, by simp [hnil], rfl⟩
  · obtain ⟨hstraps, hevents, hagenda, hfree⟩ := exec_frame hexec
    exact ⟨hstraps, hevents, by simp [hagenda, ha], hfree⟩

/-- Settles O11: what `exec_actsOnCat` and `exec_actsOnRsmp` leave out. -/
theorem unitsShareNoState : Obligations.UnitsShareNoState := by
  intro i s t h
  constructor <;> intro hi
  · obtain ⟨m, hm⟩ := exec_actsOnRsmp hi
    obtain ⟨-, rfl⟩ := hm.eq_of_next h
    exact ⟨rfl, rfl, rfl⟩
  · obtain ⟨m, hm⟩ := exec_actsOnCat hi
    obtain ⟨-, rfl⟩ := hm.eq_of_next h
    rfl

/-- Settles O12: the same meaning on both states, each time a function of the straps and of one unit. -/
theorem unitsDoNotInfluenceEachOther : Obligations.UnitsDoNotInfluenceEachOther := by
  intro i s s' t hp h
  cases hi : isResampler i
  · obtain ⟨m, hm⟩ := exec_actsOnCat hi
    obtain ⟨ha, rfl⟩ := hm.eq_of_next h
    refine ⟨m.next s', (hm s').1 (hp ▸ ha), fun hc he => ?_, id, fun _ hc hn => ?_, nofun⟩
    · simp [CatMeaning.next, hp, hc, he]
    · simp [CatMeaning.next, hp, hc, hn]
  · obtain ⟨m, hm⟩ := exec_actsOnRsmp hi
    obtain ⟨ha, rfl⟩ := hm.eq_of_next h
    refine ⟨m.next s', (hm s').1 (hp ▸ ha), fun hc he => ⟨hc, he⟩, fun hu => ?_, nofun, fun _ hu => ?_⟩
    · simp [RsmpMeaning.next, hp, hu]
    · simp [RsmpMeaning.next, hp, hu]

end Sys2Proof.Machine
end

section
/-! SUPPORT. Bytes that end no frame: they are buffered, and the overflow guard cuts the buffer (R145). -/

namespace Sys2Proof.Machine

/-- The length after which the buffer starts again from empty: one more than it may hold (R145, D17). -/
def rxModulus (p : Straps) : Nat := match p.rxGuard.compare with | .more => 257 | .atLeast => 256

/-- A length is over the cap from `rxModulus` on. -/
theorem overCap_iff (p : Straps) (len : Nat) : overCap p len = true ↔ rxModulus p ≤ len := by
  cases h : p.rxGuard.compare <;> simp only [overCap, rxModulus, h] <;> exact decide_eq_true_iff

theorem overCap_eq_false_iff (p : Straps) (len : Nat) : overCap p len = false ↔ len < rxModulus p := by
  rw [← Bool.not_eq_true, overCap_iff, Nat.not_le]

/-- The next length of a buffer under the cap: one more, from empty again at the cap. -/
theorem succ_mod_rxModulus {p : Straps} {len : Nat} (h : overCap p len = false) :
    (len + 1) % rxModulus p = if overCap p (len + 1) then 0 else len + 1 := by
  rw [overCap_eq_false_iff] at h
  split
  · next hover =>
    rw [overCap_iff] at hover
    have heq : len + 1 = rxModulus p := Nat.le_antisymm h hover
    rw [heq, Nat.mod_self]
  · next hunder => exact Nat.mod_eq_of_lt ((overCap_eq_false_iff p _).1 (by simpa using hunder))

/-- The byte step of a parser whose frames end in `term`, at any other byte: the byte is kept, unless the guard clears the
buffer. -/
def KeepsBytes (term : Byte) (f : State → Byte → State) : Prop :=
  ∀ s b, b ≠ term → f s b = guardAt (rxTake s b) .afterTest

/-- A variant that buffers receives byte by byte, with the guard of the call's end after the last. -/
theorem receive_of_terminator {s : State} {term : Byte} (h : terminator s.straps.variant = some term) :
    ∃ f, KeepsBytes term f ∧ ∀ bytes, receive s bytes = guardAt (bytes.foldl f s) .callEnd := by
  have hkw : KeepsBytes kwTerm kwRxByte := fun s b hb => if_neg hb
  have hciv : KeepsBytes civEom civRxByte := fun s b hb => if_neg hb
  cases hv : s.straps.variant <;> simp only [terminator, hv, Option.some.injEq, reduceCtorEq] at h
  case kenwood => exact ⟨kwRxByte, h ▸ hkw, fun bytes => by simp only [receive, hv]⟩
  case elecraft => exact ⟨kwRxByte, h ▸ hkw, fun bytes => by simp only [receive, hv]⟩
  case icomCiv => exact ⟨civRxByte, h ▸ hciv, fun bytes => by simp only [receive, hv]⟩

section
variable {term : Byte} {f : State → Byte → State} (hf : KeepsBytes term f)
include hf

/-- Where the guard stands at the end of the call, the bytes are appended. -/
theorem foldl_callEnd (bytes : List Byte) (hb : term ∉ bytes) : ∀ s : State, s.straps.rxGuard.place = .callEnd →
    bytes.foldl f s = s.setRxbuf (s.cat.rxbuf ++ bytes) := by
  induction bytes with
  | nil => exact fun s _ => by simp [State.setRxbuf]
  | cons b bs ih =>
    intro s hp
    obtain ⟨hne, hbs⟩ : term ≠ b ∧ term ∉ bs := by simpa using hb
    obtain ⟨hnot, -, -⟩ | ⟨-, hkeep⟩ := rxKeep_cases s b
    · exact absurd hp hnot
    · have hrest := ih hbs (s.setRxbuf (s.cat.rxbuf ++ [b])) hp
      rw [List.foldl_cons, hf s b hne.symm, hkeep, hrest, setRxbuf_rxbuf, List.append_assoc]
      rfl

/-- Where the guard stands in the byte's step, the length runs modulo `rxModulus`. -/
theorem foldl_perByte (bytes : List Byte) (hb : term ∉ bytes) : ∀ s : State, s.straps.rxGuard.place ≠ .callEnd →
    overCap s.straps s.cat.rxbuf.length = false →
    ∃ buf, bytes.foldl f s = s.setRxbuf buf ∧ buf.length = (s.cat.rxbuf.length + bytes.length) % rxModulus s.straps := by
  induction bytes with
  | nil =>
    intro s _ hcap
    exact ⟨s.cat.rxbuf, rfl, (Nat.mod_eq_of_lt ((overCap_eq_false_iff _ _).1 hcap)).symm⟩
  | cons b bs ih =>
    intro s hp hcap
    obtain ⟨hne, hbs⟩ : term ≠ b ∧ term ∉ bs := by simpa using hb
    obtain ⟨buf, hstep, hlen, hunder⟩ : ∃ buf, f s b = s.setRxbuf buf ∧
        buf.length = (s.cat.rxbuf.length + 1) % rxModulus s.straps ∧ overCap s.straps buf.length = false := by
      rw [hf s b hne.symm, succ_mod_rxModulus hcap]
      obtain ⟨-, hover, hclear⟩ | ⟨hunder, hkeep⟩ := rxKeep_cases s b
      · exact ⟨[], hclear, by simp [hover], by simp⟩
      · exact ⟨_, hkeep, by simp [hunder.resolve_left hp], by simpa using hunder.resolve_left hp⟩
    obtain ⟨buf', hrest, hlen'⟩ := ih hbs (s.setRxbuf buf) hp hunder
    refine ⟨buf', by rw [List.foldl_cons, hstep, hrest]; rfl, ?_⟩
    rw [hlen', setRxbuf_rxbuf, setRxbuf_straps, hlen, Nat.mod_add_mod, List.length_cons, Nat.add_assoc, Nat.add_comm 1]

end

/-- Settles O40: the two placements of the guard, each by induction on the bytes. -/
theorem overflowGuardClearsSilently : Obligations.OverflowGuardClearsSilently := by
  intro s bytes term hterm hb hcap
  obtain ⟨f, hf, hreceive⟩ := receive_of_terminator hterm
  suffices h : ∃ buf, receive s bytes = s.setRxbuf buf ∧ buf.length =
      if s.straps.rxGuard.place = .callEnd then
        (if overCap s.straps (s.cat.rxbuf.length + bytes.length) then 0 else s.cat.rxbuf.length + bytes.length)
      else (s.cat.rxbuf.length + bytes.length) % rxModulus s.straps by
    obtain ⟨buf, hbuf, hlen⟩ := h
    refine ⟨buf, ?_, hlen⟩
    show finish (receive s bytes) .void = _
    rw [hbuf]
    rfl
  rw [hreceive]
  by_cases hp : s.straps.rxGuard.place = .callEnd
  · rw [foldl_callEnd hf bytes hb s hp, if_pos hp]
    obtain ⟨-, hover, hclear⟩ | ⟨hunder, hkeep⟩ := guardAt_cases (s.setRxbuf (s.cat.rxbuf ++ bytes)) .callEnd
    · rw [setRxbuf_straps, setRxbuf_rxbuf, List.length_append] at hover
      exact ⟨[], hclear, by rw [if_pos hover]; rfl⟩
    · have hcap' := hunder.resolve_left fun hnot => hnot hp
      rw [setRxbuf_straps, setRxbuf_rxbuf, List.length_append] at hcap'
      exact ⟨_, hkeep, by simp [hcap']⟩
  · obtain ⟨buf, hbuf, hlen⟩ := foldl_perByte hf bytes hb s hp hcap
    obtain ⟨hplace, -, -⟩ | ⟨-, hkeep⟩ := guardAt_cases (s.setRxbuf buf) .callEnd
    · exact absurd hplace hp
    · exact ⟨buf, by rw [hbuf, hkeep], by rw [if_neg hp, hlen]⟩

end Sys2Proof.Machine
end

section
/-! SUPPORT. Rounding in the format `FP` (R10, D3): the value of a bit pattern, what `fpRound` gives, and that it is the
nearest value of the format. -/

namespace Sys2Proof.Machine

/-! ### The format's numbers -/

theorem fpExpUnit_pos (fmt : FpFormat) : 0 < fpExpUnit fmt := by unfold fpExpUnit; positivity

theorem fpPrec_pos (fmt : FpFormat) : 0 < fpPrec fmt := by cases fmt <;> decide

theorem two_dvd_fpExpUnit (fmt : FpFormat) : 2 ∣ fpExpUnit fmt := by cases fmt <;> decide

theorem two_mul_fpExpUnit (fmt : FpFormat) : 2 * fpExpUnit fmt = 2 ^ fpPrec fmt := by cases fmt <;> rfl

theorem fpSignBit_eq (fmt : FpFormat) : fpSignBit fmt = (fpExpMax fmt + 1) * fpExpUnit fmt := by cases fmt <;> rfl

theorem two_mul_fpSignBit (fmt : FpFormat) : 2 * fpSignBit fmt = 2 ^ fpWidth fmt := by cases fmt <;> rfl

theorem two_pow_fpWidth_dvd (fmt : FpFormat) : 2 ^ fpWidth fmt ∣ 2 ^ 64 := pow_dvd_pow 2 (by cases fmt <;> decide)

theorem four_le_fpExpMax (fmt : FpFormat) : 4 ≤ fpExpMax fmt := by cases fmt <;> decide

theorem fpInfBits_lt_fpSignBit (fmt : FpFormat) : fpInfBits fmt < fpSignBit fmt := by
  rw [fpInfBits, fpSignBit_eq, Nat.add_mul, Nat.one_mul]
  exact Nat.lt_add_of_pos_right (fpExpUnit_pos fmt)

theorem two_dvd_fpSignBit (fmt : FpFormat) : 2 ∣ fpSignBit fmt := by
  rw [fpSignBit_eq]
  exact Dvd.dvd.mul_left (two_dvd_fpExpUnit fmt) _

/-! ### Bit patterns and their values -/

/-- The units of the finite value whose bits below the sign are `body`. -/
def fpMagnitude (fmt : FpFormat) (body : Nat) : Nat :=
  if body / fpExpUnit fmt = 0 then body % fpExpUnit fmt
  else (fpExpUnit fmt + body % fpExpUnit fmt) * 2 ^ (body / fpExpUnit fmt - 1)

/-- The bits of a sample below its sign. -/
def fpBody (fmt : FpFormat) (x : Sample) : Nat := x.toNat % fpSignBit fmt

/-- The sign of a sample. -/
def fpNegative (fmt : FpFormat) (x : Sample) : Bool := fpSignBit fmt ≤ x.toNat % 2 ^ fpWidth fmt

/-- Bits below those of infinity are a finite value. -/
theorem fpUnpack_of_body_lt {fmt : FpFormat} {x : Sample} (h : fpBody fmt x < fpInfBits fmt) :
    fpUnpack fmt x = .fin (fpNegative fmt x) (fpMagnitude fmt (fpBody fmt x)) := by
  have he : fpBody fmt x / fpExpUnit fmt ≠ fpExpMax fmt := (Nat.div_lt_of_lt_mul (by rwa [Nat.mul_comm])).ne
  simp only [fpBody] at he ⊢
  simp only [fpUnpack, if_neg he, fpMagnitude, fpNegative]
  split <;> rfl

/-- A finite value has bits below those of infinity. -/
theorem fpBody_lt_of_isFinite {fmt : FpFormat} {x : Sample} (h : isFinite fmt x = true) :
    fpBody fmt x < fpInfBits fmt := by
  have hle : fpBody fmt x / fpExpUnit fmt ≤ fpExpMax fmt := by
    refine Nat.le_of_lt_succ (Nat.div_lt_of_lt_mul ?_)
    rw [Nat.mul_comm, ← fpSignBit_eq]
    exact Nat.mod_lt _ (Nat.zero_le _ |>.trans_lt (fpInfBits_lt_fpSignBit fmt))
  have hne : fpBody fmt x / fpExpUnit fmt ≠ fpExpMax fmt := by
    intro he
    simp only [fpBody] at he
    by_cases hm : x.toNat % fpSignBit fmt % fpExpUnit fmt = 0 <;> simp [isFinite, fpUnpack, he, hm] at h
  exact (Nat.div_lt_iff_lt_mul (fpExpUnit_pos fmt)).1 (Nat.lt_of_le_of_ne hle hne)

/-- A finite sample in units: its sign and its magnitude. -/
theorem unitsOf_of_isFinite {fmt : FpFormat} {x : Sample} (h : isFinite fmt x = true) :
    unitsOf fmt x = signedUnits (fpNegative fmt x) (fpMagnitude fmt (fpBody fmt x)) := by
  simp [unitsOf, fpUnpack_of_body_lt (fpBody_lt_of_isFinite h)]

/-- What a finite sample unpacks to gives its units. -/
theorem exists_fpUnpack_of_isFinite {fmt : FpFormat} {x : Sample} (h : isFinite fmt x = true) :
    ∃ neg n, fpUnpack fmt x = .fin neg n ∧ unitsOf fmt x = signedUnits neg n :=
  ⟨_, _, fpUnpack_of_body_lt (fpBody_lt_of_isFinite h), unitsOf_of_isFinite h⟩

theorem fpSigned_toNat {fmt : FpFormat} (neg : Bool) {body : Nat} (h : body < fpSignBit fmt) :
    (fpSigned fmt neg body).toNat = if neg then fpSignBit fmt + body else body := by
  have hw : 2 ^ fpWidth fmt ≤ 2 ^ 64 := Nat.le_of_dvd (by positivity) (two_pow_fpWidth_dvd fmt)
  have h2 := two_mul_fpSignBit fmt
  rw [fpSigned, BitVec.toNat_ofNat, Nat.mod_eq_of_lt]
  split <;> omega

theorem fpBody_fpSigned {fmt : FpFormat} (neg : Bool) {body : Nat} (h : body < fpSignBit fmt) :
    fpBody fmt (fpSigned fmt neg body) = body := by
  rw [fpBody, fpSigned_toNat neg h]
  cases neg <;> simp [Nat.mod_eq_of_lt h]

theorem fpNegative_fpSigned {fmt : FpFormat} (neg : Bool) {body : Nat} (h : body < fpSignBit fmt) :
    fpNegative fmt (fpSigned fmt neg body) = neg := by
  have h2 := two_mul_fpSignBit fmt
  rw [fpNegative, fpSigned_toNat neg h, Nat.mod_eq_of_lt (by split <;> omega)]
  cases neg <;> simp [h]

/-- A finite value packed and unpacked. -/
theorem fpUnpack_fpSigned {fmt : FpFormat} (neg : Bool) {body : Nat} (h : body < fpInfBits fmt) :
    fpUnpack fmt (fpSigned fmt neg body) = .fin neg (fpMagnitude fmt body) := by
  have hs := h.trans (fpInfBits_lt_fpSignBit fmt)
  have hb := fpBody_fpSigned neg hs
  rw [fpUnpack_of_body_lt (hb.symm ▸ h), hb, fpNegative_fpSigned neg hs]

/-- The sign bit is even: the last bit is that of the bits below the sign. -/
theorem fpSigned_even {fmt : FpFormat} (neg : Bool) {body : Nat} (h : body < fpSignBit fmt) (he : 2 ∣ body) :
    (fpSigned fmt neg body).toNat % 2 = 0 := by
  have hs := two_dvd_fpSignBit fmt
  rw [fpSigned_toNat neg h]
  split <;> omega

/-- The value with the significand `q` and the exponent field `k + 1`, where a carry out of the significand or, at the
smallest exponent, a missing hidden bit moves the exponent field by itself. -/
theorem fpMagnitude_add {fmt : FpFormat} {k q : Nat} (hq : q ≤ 2 * fpExpUnit fmt) (hk : k ≠ 0 → fpExpUnit fmt ≤ q) :
    fpMagnitude fmt (k * fpExpUnit fmt + q) = q * 2 ^ k := by
  have hU := fpExpUnit_pos fmt
  have hdiv : (k * fpExpUnit fmt + q) / fpExpUnit fmt = k + q / fpExpUnit fmt := by
    rw [Nat.add_comm, Nat.add_mul_div_right _ _ hU, Nat.add_comm]
  have hmod : (k * fpExpUnit fmt + q) % fpExpUnit fmt = q % fpExpUnit fmt := Nat.mul_add_mod_self_right k _ q
  rw [fpMagnitude, hdiv, hmod]
  obtain hlt | ⟨hge, hlt⟩ | rfl : q < fpExpUnit fmt ∨ (fpExpUnit fmt ≤ q ∧ q < 2 * fpExpUnit fmt) ∨
      q = 2 * fpExpUnit fmt := by omega
  · have hk0 : k = 0 := by by_contra h0; exact absurd (hk h0) (by omega)
    simp [hk0, Nat.div_eq_of_lt hlt, Nat.mod_eq_of_lt hlt]
  · have h1 : q / fpExpUnit fmt = 1 := Nat.div_eq_of_lt_le (by omega) (by omega)
    have h2 : q % fpExpUnit fmt = q - fpExpUnit fmt := by
      rw [Nat.mod_eq_sub_mod hge, Nat.mod_eq_of_lt (by omega)]
    rw [h1, h2, if_neg (by omega), Nat.add_sub_cancel, Nat.add_sub_cancel' hge]
  · rw [Nat.mul_div_cancel _ hU, Nat.mul_mod_left, if_neg (by omega), Nat.add_zero,
      show k + 2 - 1 = k + 1 by omega, pow_succ]
    ring

/-- The values of the format from `2 ^ (prec - 1 + k)` up are multiples of `2 ^ k`. -/
theorem fpMagnitude_dvd_or_lt (fmt : FpFormat) (body k : Nat) :
    2 ^ k ∣ fpMagnitude fmt body ∨ (0 < k ∧ fpMagnitude fmt body < fpExpUnit fmt * 2 ^ k) := by
  obtain rfl | hpos := k.eq_zero_or_pos
  · exact .inl (by simp)
  have hm : body % fpExpUnit fmt < fpExpUnit fmt := Nat.mod_lt _ (fpExpUnit_pos fmt)
  unfold fpMagnitude
  split
  · exact .inr ⟨hpos, hm.trans_le (Nat.le_mul_of_pos_right _ (by positivity))⟩
  · obtain hk | hk := Nat.lt_or_ge (body / fpExpUnit fmt - 1) k
    · refine .inr ⟨hpos, ?_⟩
      calc (fpExpUnit fmt + body % fpExpUnit fmt) * 2 ^ (body / fpExpUnit fmt - 1)
          < (2 * fpExpUnit fmt) * 2 ^ (body / fpExpUnit fmt - 1) := by gcongr; omega
        _ = fpExpUnit fmt * 2 ^ (body / fpExpUnit fmt - 1 + 1) := by rw [pow_succ]; ring
        _ ≤ fpExpUnit fmt * 2 ^ k := by gcongr <;> omega
    · exact .inl (Dvd.dvd.mul_left (pow_dvd_pow 2 hk) _)

/-! ### Rounding -/

/-- `roundShift` errs by at most half of `2 ^ sh`, and by exactly half only where its result is even. -/
theorem roundShift_error (n sh : Nat) :
    2 * ((roundShift n sh * 2 ^ sh : Nat) - (n : Int)).natAbs ≤ 2 ^ sh ∧
    (2 * ((roundShift n sh * 2 ^ sh : Nat) - (n : Int)).natAbs = 2 ^ sh → roundShift n sh % 2 = 0) := by
  have hn := Nat.div_add_mod' n (2 ^ sh)
  have hr : n % 2 ^ sh < 2 ^ sh := Nat.mod_lt _ (by positivity)
  have hq : (n / 2 ^ sh + 1) * 2 ^ sh = n / 2 ^ sh * 2 ^ sh + 2 ^ sh := by rw [Nat.add_mul, Nat.one_mul]
  unfold roundShift
  split <;> omega

theorem roundShift_le {n sh k : Nat} (h : n ≤ k * 2 ^ sh) : roundShift n sh ≤ k := by
  have herr := (roundShift_error n sh).1
  have hpos : 0 < 2 ^ sh := by positivity
  by_contra hlt
  have hmul : (k + 1) * 2 ^ sh ≤ roundShift n sh * 2 ^ sh := Nat.mul_le_mul_right _ (by omega)
  rw [Nat.add_mul, Nat.one_mul] at hmul
  omega

theorem le_roundShift {n sh k : Nat} (h : k * 2 ^ sh ≤ n) : k ≤ roundShift n sh := by
  have herr := (roundShift_error n sh).1
  have hpos : 0 < 2 ^ sh := by positivity
  by_contra hlt
  have hmul : (roundShift n sh + 1) * 2 ^ sh ≤ k * 2 ^ sh := Nat.mul_le_mul_right _ (by omega)
  rw [Nat.add_mul, Nat.one_mul] at hmul
  omega

/-- `r` is as near to `n` as `w` is, and nearer unless they are the same or `even` holds. -/
def NearerThan (n r w : Int) (even : Prop) : Prop :=
  (r - n).natAbs ≤ (w - n).natAbs ∧ (w ≠ r → (r - n).natAbs = (w - n).natAbs → even)

/-- `roundShift` gives the multiple of `2 ^ sh` nearest to `n`, the even one of two that are equally near: any other
multiple is `2 ^ sh` away from the one it gives. -/
theorem roundShift_nearest (n sh k : Nat) :
    NearerThan n (roundShift n sh * 2 ^ sh : Nat) (k * 2 ^ sh : Nat) (roundShift n sh % 2 = 0) := by
  obtain ⟨herr, heven⟩ := roundShift_error n sh
  obtain hlt | rfl | hgt := Nat.lt_trichotomy k (roundShift n sh)
  · have hmul : (k + 1) * 2 ^ sh ≤ roundShift n sh * 2 ^ sh := Nat.mul_le_mul_right _ hlt
    rw [Nat.add_mul, Nat.one_mul] at hmul
    exact ⟨by omega, fun _ heq => heven (by omega)⟩
  · exact ⟨le_rfl, fun hne => absurd rfl hne⟩
  · have hmul : (roundShift n sh + 1) * 2 ^ sh ≤ k * 2 ^ sh := Nat.mul_le_mul_right _ hgt
    rw [Nat.add_mul, Nat.one_mul] at hmul
    exact ⟨by omega, fun _ heq => heven (by omega)⟩

/-! ### `fpRound` -/

theorem le_fpCut (fmt : FpFormat) (n d : Nat) : d ≤ fpCut fmt n d := Nat.le_max_right _ _

theorem lt_two_pow_bitLength (n : Nat) : n < 2 ^ bitLength n := by
  unfold bitLength
  split
  · simp [*]
  · exact Nat.lt_log2_self

theorem two_pow_bitLength_le {n : Nat} (h : n ≠ 0) : 2 ^ (bitLength n - 1) ≤ n := by
  rw [bitLength, if_neg h, Nat.add_sub_cancel]
  exact Nat.log2_self_le h

/-- The significand that is left after the cut has at most the precision's bits. -/
theorem lt_two_mul_fpExpUnit_mul (fmt : FpFormat) (n d : Nat) :
    n < 2 * fpExpUnit fmt * 2 ^ fpCut fmt n d := by
  rw [two_mul_fpExpUnit, ← pow_add]
  refine (lt_two_pow_bitLength n).trans_le (Nat.pow_le_pow_right (by decide) ?_)
  unfold fpCut
  omega

/-- Where more is cut than must be, the significand has its hidden bit. -/
theorem fpExpUnit_mul_le {fmt : FpFormat} {n d : Nat} (h : d < fpCut fmt n d) :
    fpExpUnit fmt * 2 ^ fpCut fmt n d ≤ n := by
  have hcut : fpCut fmt n d = bitLength n - fpPrec fmt := by unfold fpCut at h ⊢; omega
  have hn : n ≠ 0 := by rintro rfl; simp [hcut, bitLength] at h
  refine le_trans ?_ (two_pow_bitLength_le hn)
  rw [fpExpUnit, ← pow_add]
  exact Nat.pow_le_pow_right (by decide) (by have := fpPrec_pos fmt; omega)

/-- The largest finite magnitude of the format. -/
def fpLargest (fmt : FpFormat) : Nat := (2 ^ fpPrec fmt - 1) * 2 ^ (fpExpMax fmt - 2)

section
variable {fmt : FpFormat} {n d : Nat}

theorem roundShift_fpCut_le : roundShift n (fpCut fmt n d) ≤ 2 * fpExpUnit fmt :=
  roundShift_le (lt_two_mul_fpExpUnit_mul fmt n d).le

theorem le_roundShift_fpCut (h : fpCut fmt n d - d ≠ 0) : fpExpUnit fmt ≤ roundShift n (fpCut fmt n d) :=
  le_roundShift (fpExpUnit_mul_le (by omega))

/-- The bits before the bound at infinity. -/
def fpRoundBits (fmt : FpFormat) (n d : Nat) : Nat :=
  (fpCut fmt n d - d) * fpExpUnit fmt + roundShift n (fpCut fmt n d)

/-- The bits before the bound at infinity stand for the rounded significand times its weight. -/
theorem fpMagnitude_fpRoundBits : fpMagnitude fmt (fpRoundBits fmt n d) * 2 ^ d =
    roundShift n (fpCut fmt n d) * 2 ^ fpCut fmt n d := by
  rw [fpRoundBits, fpMagnitude_add roundShift_fpCut_le le_roundShift_fpCut, Nat.mul_assoc, ← pow_add,
    Nat.sub_add_cancel (le_fpCut fmt n d)]

/-- A number that is not beyond the largest finite value rounds to a finite value. -/
theorem fpRoundBits_lt (hn : n ≤ fpLargest fmt * 2 ^ d) : fpRoundBits fmt n d < fpInfBits fmt := by
  have hU := fpExpUnit_pos fmt
  have hE := four_le_fpExpMax fmt
  have hq : roundShift n (fpCut fmt n d) ≤ 2 * fpExpUnit fmt := roundShift_fpCut_le
  have hd := le_fpCut fmt n d
  rw [fpLargest, ← two_mul_fpExpUnit, Nat.mul_assoc, ← pow_add] at hn
  obtain hsmall | hlast | hbig : fpCut fmt n d - d + 3 ≤ fpExpMax fmt ∨ fpCut fmt n d = fpExpMax fmt - 2 + d ∨
      fpExpMax fmt - 1 + d ≤ fpCut fmt n d := by omega
  · calc fpRoundBits fmt n d
        ≤ (fpCut fmt n d - d) * fpExpUnit fmt + 2 * fpExpUnit fmt := Nat.add_le_add_left hq _
      _ < (fpCut fmt n d - d + 3) * fpExpUnit fmt := by rw [Nat.add_mul]; omega
      _ ≤ fpInfBits fmt := Nat.mul_le_mul_right _ hsmall
  · have hlt : roundShift n (fpCut fmt n d) ≤ 2 * fpExpUnit fmt - 1 := roundShift_le (hlast ▸ hn)
    calc fpRoundBits fmt n d
        < (fpCut fmt n d - d) * fpExpUnit fmt + 2 * fpExpUnit fmt := Nat.add_lt_add_left (by omega) _
      _ = (fpCut fmt n d - d + 2) * fpExpUnit fmt := by rw [Nat.add_mul]
      _ = fpInfBits fmt := by rw [fpInfBits]; congr 1; omega
  · have hlow := fpExpUnit_mul_le (fmt := fmt) (n := n) (d := d) (by omega)
    have hpow : 2 * 2 ^ (fpExpMax fmt - 2 + d) ≤ 2 ^ fpCut fmt n d := by
      rw [← pow_succ']
      exact Nat.pow_le_pow_right (by decide) (by omega)
    have : fpExpUnit fmt * (2 * 2 ^ (fpExpMax fmt - 2 + d)) ≤ (2 * fpExpUnit fmt - 1) * 2 ^ (fpExpMax fmt - 2 + d) :=
      (Nat.mul_le_mul_left _ hpow).trans (hlow.trans hn)
    rw [← Nat.mul_assoc, Nat.mul_comm _ 2] at this
    exact absurd (Nat.le_of_mul_le_mul_right this (by positivity)) (by omega)

theorem fpRound_eq (hn : n ≤ fpLargest fmt * 2 ^ d) : fpRound fmt n d = fpRoundBits fmt n d :=
  Nat.min_eq_right (fpRoundBits_lt hn).le

end

/-- The bits are even where the rounded significand is: the exponent field does not reach the last bit. -/
theorem two_dvd_fpRoundBits {fmt : FpFormat} {n d : Nat} (h : roundShift n (fpCut fmt n d) % 2 = 0) :
    2 ∣ fpRoundBits fmt n d :=
  (Dvd.dvd.mul_left (two_dvd_fpExpUnit fmt) _).add (Nat.dvd_of_mod_eq_zero h)

/-- No magnitude of the format is nearer to `n / 2 ^ d` than the one `fpRoundBits` gives.  A magnitude off the grid of
the cut lies below the smallest significand with a hidden bit, which is on the grid and nearer. -/
theorem fpRoundBits_nearest (fmt : FpFormat) (n d body : Nat) :
    NearerThan n (fpMagnitude fmt (fpRoundBits fmt n d) * 2 ^ d : Nat) (fpMagnitude fmt body * 2 ^ d : Nat)
      (2 ∣ fpRoundBits fmt n d) := by
  rw [fpMagnitude_fpRoundBits]
  have hd := le_fpCut fmt n d
  have hpow : 2 ^ (fpCut fmt n d - d) * 2 ^ d = 2 ^ fpCut fmt n d := by rw [← pow_add, Nat.sub_add_cancel hd]
  obtain ⟨k, hk⟩ | ⟨hc, hlt⟩ := fpMagnitude_dvd_or_lt fmt body (fpCut fmt n d - d)
  · rw [hk, Nat.mul_comm (2 ^ _) k, Nat.mul_assoc, hpow]
    obtain ⟨hle, heven⟩ := roundShift_nearest n (fpCut fmt n d) k
    exact ⟨hle, fun hne heq => two_dvd_fpRoundBits (heven hne heq)⟩
  · have hlow := fpExpUnit_mul_le (fmt := fmt) (n := n) (d := d) (by omega)
    have hw : fpMagnitude fmt body * 2 ^ d < fpExpUnit fmt * 2 ^ fpCut fmt n d := by
      rw [← hpow, ← Nat.mul_assoc]
      exact Nat.mul_lt_mul_of_pos_right hlt (by positivity)
    have hle := (roundShift_nearest n (fpCut fmt n d) (fpExpUnit fmt)).1
    exact ⟨by omega, fun _ heq => absurd heq (by omega)⟩

/-! ### Signs -/

theorem natAbs_signedUnits (neg : Bool) (n : Nat) : (signedUnits neg n).natAbs = n := by
  cases neg <;> simp [signedUnits]

theorem signedUnits_natAbs (v : Int) : signedUnits (v < 0) v.natAbs = v := by
  simp only [signedUnits, decide_eq_true_eq]
  split <;> omega

theorem signedUnits_mul_signedUnits (na nb : Bool) (a b : Nat) :
    signedUnits na a * signedUnits nb b = signedUnits (na != nb) (a * b) := by
  cases na <;> cases nb <;> simp [signedUnits]

theorem signedUnits_mul_pow (neg : Bool) (n d : Nat) : signedUnits neg n * 2 ^ d = signedUnits neg (n * 2 ^ d) := by
  cases neg <;> simp [signedUnits]

theorem signedUnits_inj {neg : Bool} {a b : Nat} : signedUnits neg a = signedUnits neg b ↔ a = b := by
  cases neg <;> simp [signedUnits]

theorem signedUnits_zero (neg : Bool) : signedUnits neg 0 = 0 := by
  cases neg <;> rfl

/-- Values of one sign are as far apart as their magnitudes. -/
theorem natAbs_signedUnits_sub (neg : Bool) (a b : Nat) :
    (signedUnits neg a - signedUnits neg b).natAbs = ((a : Int) - b).natAbs := by
  cases neg with
  | false => rfl
  | true => simp only [signedUnits, if_true]; omega

/-- Values of different signs are as far apart as their magnitudes add up to. -/
theorem natAbs_signedUnits_not_sub (neg : Bool) (a b : Nat) :
    (signedUnits (!neg) a - signedUnits neg b).natAbs = a + b := by
  cases neg <;> (simp only [signedUnits, Bool.not_true, Bool.not_false, if_true, Bool.false_eq_true, if_false]; omega)

/-- Nearest of the magnitudes, zero among them, is nearest of the signed values: a value of the other sign is further
away than zero. -/
theorem NearerThan.signed {n r w : Nat} {even : Prop} (neg neg' : Bool) (hzero : NearerThan n r (0 : Nat) even)
    (hw : NearerThan n r w even) :
    NearerThan (signedUnits neg n) (signedUnits neg r) (signedUnits neg' w) even := by
  obtain rfl | rfl : neg' = neg ∨ neg' = !neg := by cases neg <;> cases neg' <;> decide
  · obtain ⟨hle, heven⟩ := hw
    simp only [NearerThan, natAbs_signedUnits_sub, ne_eq, signedUnits_inj]
    exact ⟨hle, fun hne => heven (by omega)⟩
  · obtain ⟨hle, heven⟩ := hzero
    simp only [NearerThan, natAbs_signedUnits_sub, natAbs_signedUnits_not_sub]
    refine ⟨by omega, fun hne heq => heven (fun hr => hne ?_) (by omega)⟩
    obtain ⟨rfl, rfl⟩ : w = 0 ∧ r = 0 := by omega
    rw [signedUnits_zero, signedUnits_zero]

/-- `z` is the value of the format nearest to `v / 2 ^ d` units, ties to even (R10, D3). -/
def RoundsTo (fmt : FpFormat) (d : Nat) (v : Int) (z : Sample) : Prop :=
  isFinite fmt z = true ∧ ∀ w : Sample, isFinite fmt w = true →
    NearerThan v (unitsOf fmt z * 2 ^ d) (unitsOf fmt w * 2 ^ d) (z.toNat % 2 = 0)

/-- A sign and the rounding of a magnitude not beyond the largest finite value. -/
theorem fpSigned_fpRound_roundsTo {fmt : FpFormat} {n d : Nat} (neg : Bool) (hn : n ≤ fpLargest fmt * 2 ^ d) :
    RoundsTo fmt d (signedUnits neg n) (fpSigned fmt neg (fpRound fmt n d)) := by
  have hlt := fpRoundBits_lt hn
  have hsign := hlt.trans (fpInfBits_lt_fpSignBit fmt)
  have hz := fpUnpack_fpSigned neg hlt
  rw [fpRound_eq hn]
  refine ⟨by simp [isFinite, hz], fun w hw => ?_⟩
  have hunits : unitsOf fmt (fpSigned fmt neg (fpRoundBits fmt n d)) =
      signedUnits neg (fpMagnitude fmt (fpRoundBits fmt n d)) := by simp [unitsOf, hz]
  have hzero := fpRoundBits_nearest fmt n d 0
  rw [show fpMagnitude fmt 0 * 2 ^ d = 0 by simp [fpMagnitude]] at hzero
  rw [hunits, unitsOf_of_isFinite hw, signedUnits_mul_pow, signedUnits_mul_pow]
  obtain ⟨hle, heven⟩ := hzero.signed neg (fpNegative fmt w) (fpRoundBits_nearest fmt n d (fpBody fmt w))
  exact ⟨hle, fun hne heq => fpSigned_even neg hsign (heven hne heq)⟩

/-- `fadd` of finite values rounds their exact sum. -/
theorem fadd_roundsTo {fmt : FpFormat} {x y : Sample} (hx : isFinite fmt x = true) (hy : isFinite fmt y = true)
    (hsum : (unitsOf fmt x + unitsOf fmt y).natAbs ≤ fpLargest fmt) :
    RoundsTo fmt 0 (unitsOf fmt x + unitsOf fmt y) (fadd fmt x y) := by
  obtain ⟨na, a, hxu, hxv⟩ := exists_fpUnpack_of_isFinite hx
  obtain ⟨nb, b, hyu, hyv⟩ := exists_fpUnpack_of_isFinite hy
  rw [hxv, hyv] at hsum ⊢
  simp only [fadd, hxu, hyu, fpAddFinite]
  generalize signedUnits na a + signedUnits nb b = v at *
  split
  case isTrue h0 =>
    have hr := fpSigned_fpRound_roundsTo (fmt := fmt) (n := 0) (d := 0) (na && nb) (Nat.zero_le _)
    rwa [show fpRound fmt 0 0 = 0 by simp [fpRound, fpCut, bitLength, roundShift],
      show signedUnits (na && nb) 0 = v by simp [signedUnits, h0]] at hr
  case isFalse =>
    have hr := fpSigned_fpRound_roundsTo (fmt := fmt) (n := v.natAbs) (d := 0) (v < 0) (by simpa using hsum)
    rwa [signedUnits_natAbs] at hr

/-- `fmul` of finite values rounds their exact product. -/
theorem fmul_roundsTo {fmt : FpFormat} {x y : Sample} (hx : isFinite fmt x = true) (hy : isFinite fmt y = true)
    (hprod : (unitsOf fmt x * unitsOf fmt y).natAbs ≤ fpLargest fmt * 2 ^ fpScale fmt) :
    RoundsTo fmt (fpScale fmt) (unitsOf fmt x * unitsOf fmt y) (fmul fmt x y) := by
  obtain ⟨na, a, hxu, hxv⟩ := exists_fpUnpack_of_isFinite hx
  obtain ⟨nb, b, hyu, hyv⟩ := exists_fpUnpack_of_isFinite hy
  rw [hxv, hyv, signedUnits_mul_signedUnits] at hprod ⊢
  rw [natAbs_signedUnits] at hprod
  simp only [fmul, hxu, hyu]
  exact fpSigned_fpRound_roundsTo _ hprod

/-- Settles O59: the sum is `fpRound` of the exact sum, which gives the nearest magnitude (`fpRoundBits_nearest`). -/
theorem additionRoundsToNearest : Obligations.AdditionRoundsToNearest := by
  intro fmt x y w hx hy hw hsum
  obtain ⟨hfin, hnear⟩ := fadd_roundsTo hx hy hsum
  obtain ⟨hle, heven⟩ := hnear w hw
  simp only [pow_zero, mul_one] at hle heven
  exact ⟨hfin, hle, heven⟩

/-- Settles O60: the product is `fpRound` of the exact product, in units of the square of the unit. -/
theorem multiplicationRoundsToNearest : Obligations.MultiplicationRoundsToNearest := by
  intro fmt x y w hx hy hw hprod
  obtain ⟨hfin, hnear⟩ := fmul_roundsTo hx hy hprod
  obtain ⟨hle, heven⟩ := hnear w hw
  refine ⟨hfin, hle, fun hne => heven fun heq => hne ?_⟩
  exact mul_right_cancel₀ (by positivity) heq

end Sys2Proof.Machine
end

section
/-! SUPPORT. Legal storage: the sums, products and coefficients the unit computes are values of the format, the filter's
operations keep the sample stores so, and a reception keeps the receive buffer under the cap and without a
terminator. -/

namespace Sys2Proof.Machine

/-! ### Values of the format -/

/-- A sign and bits below the sign bit are a value of the format. -/
theorem sampleFits_fpSigned {fmt : FpFormat} (neg : Bool) {body : Nat} (h : body < fpSignBit fmt) :
    sampleFits fmt (fpSigned fmt neg body) = true := by
  have h2 := two_mul_fpSignBit fmt
  rw [sampleFits, fpSigned_toNat neg h, decide_eq_true_eq]
  split <;> omega

@[simp] theorem sampleFits_fzero (fmt : FpFormat) : sampleFits fmt fzero = true := by simp [sampleFits, fzero]

@[simp] theorem sampleFits_fpNan (fmt : FpFormat) : sampleFits fmt (fpNan fmt) = true := by cases fmt <;> decide

@[simp] theorem sampleFits_fpInf (fmt : FpFormat) (neg : Bool) :
    sampleFits fmt (fpSigned fmt neg (fpInfBits fmt)) = true :=
  sampleFits_fpSigned neg (fpInfBits_lt_fpSignBit fmt)

@[simp] theorem sampleFits_fpRound (fmt : FpFormat) (neg : Bool) (n d : Nat) :
    sampleFits fmt (fpSigned fmt neg (fpRound fmt n d)) = true :=
  sampleFits_fpSigned neg ((Nat.min_le_left _ _).trans_lt (fpInfBits_lt_fpSignBit fmt))

/-- A product is a rounded value, an infinity or the canonical NaN. -/
theorem sampleFits_fmul (fmt : FpFormat) (x y : Sample) : sampleFits fmt (fmul fmt x y) = true := by
  cases hx : fpUnpack fmt x with
  | nan => simp [fmul, hx]
  | inf s => cases hy : fpUnpack fmt y <;> simp [fmul, hx, hy, apply_ite (sampleFits fmt)]
  | fin s a => cases hy : fpUnpack fmt y <;> simp [fmul, hx, hy, apply_ite (sampleFits fmt)]

/-- The reference coefficients are rounded quotients. -/
theorem sampleFits_of_mem_coeffReference {fmt : FpFormat} {r t : Nat} {x : Sample} (hx : x ∈ coeffReference fmt r t) :
    sampleFits fmt x = true := by
  obtain ⟨raw, -, rfl⟩ := List.mem_map.1 hx
  exact sampleFits_fpRound fmt _ _ _

/-! ### The parameter `COEFF` -/

/-- `COEFF` is a vector that the parameter holds for this ratio and taps, or where it holds none the reference. -/
theorem coeffFor_cases (p : Straps) (r t : Nat) :
    (∃ e ∈ p.coeffTable, e.r = r ∧ e.t = t ∧ coeffFor p r t = e.values) ∨
    ((∀ e ∈ p.coeffTable, ¬ (e.r = r ∧ e.t = t)) ∧ coeffFor p r t = coeffReference p.fp r t) := by
  cases hfind : p.coeffTable.find? fun e => e.r = r ∧ e.t = t with
  | some e =>
    obtain ⟨hr, ht⟩ : e.r = r ∧ e.t = t := by simpa using List.find?_some hfind
    exact .inl ⟨e, List.mem_of_find?_eq_some hfind, hr, ht, by simp only [coeffFor, hfind]⟩
  | none => exact .inr ⟨by simpa using hfind, by simp only [coeffFor, hfind]⟩

theorem coeffLegal_of_mem_coeffTable {p : Straps} (hp : strapsLegal p = true) {e : CoeffEntry}
    (he : e ∈ p.coeffTable) : coeffLegal p.fp e.r e.t e.values = true := by
  rw [strapsLegal, Bool.and_eq_true, List.all_eq_true] at hp
  exact hp.2 e he

theorem coeffLegal_iff {fmt : FpFormat} {r t : Nat} {values : List Sample} :
    coeffLegal fmt r t values = true ↔
      values.length = r * t ∧ (∀ x ∈ values, sampleFits fmt x = true ∧ isFinite fmt x = true) ∧
      (unitSum fmt values - 2 ^ fpScale fmt).natAbs * 2 ^ (fpPrec fmt - 1) ≤ values.length * 2 ^ fpScale fmt := by
  simp [coeffLegal, and_assoc]

theorem coeffFor_length {p : Straps} (hp : strapsLegal p = true) (r t : Nat) : (coeffFor p r t).length = r * t := by
  obtain ⟨e, he, rfl, rfl, hcoeff⟩ | ⟨-, hcoeff⟩ := coeffFor_cases p r t
  · rw [hcoeff]
    exact (coeffLegal_iff.1 (coeffLegal_of_mem_coeffTable hp he)).1
  · rw [hcoeff, coeffReference_length]

theorem sampleFits_of_mem_coeffFor {p : Straps} (hp : strapsLegal p = true) {r t : Nat} {x : Sample}
    (hx : x ∈ coeffFor p r t) : sampleFits p.fp x = true := by
  obtain ⟨e, he, -, -, hcoeff⟩ | ⟨-, hcoeff⟩ := coeffFor_cases p r t
  · obtain ⟨-, hfits, -⟩ := coeffLegal_iff.1 (coeffLegal_of_mem_coeffTable hp he)
    exact (hfits x (hcoeff ▸ hx)).1
  · exact sampleFits_of_mem_coeffReference (hcoeff ▸ hx)

/-! ### The sample stores -/

section
variable {fmt : FpFormat} {u : FirState Sample}

theorem firNew_samplesLegal {r t : Nat} {coeff : List Sample} (hc : ∀ x ∈ coeff, sampleFits fmt x = true) :
    samplesLegal fmt (firNew (fpArith fmt) r t coeff) :=
  ⟨hc, fun _ hx => List.eq_of_mem_replicate hx ▸ sampleFits_fzero fmt⟩

theorem firReset_samplesLegal (h : samplesLegal fmt u) : samplesLegal fmt (firReset (fpArith fmt) u) :=
  ⟨h.1, fun _ hx => List.eq_of_mem_replicate hx ▸ sampleFits_fzero fmt⟩

theorem firPush_samplesLegal (h : samplesLegal fmt u) {v : Sample} (hv : sampleFits fmt v = true) :
    samplesLegal fmt (firPush u v) := by
  refine ⟨h.1, fun x hx => ?_⟩
  obtain hold | rfl := List.mem_or_eq_of_mem_set hx
  · exact h.2 x hold
  · exact hv

theorem decimateFrom_samplesLegal (A : Arith Sample) {xs : List Sample} (hxs : ∀ x ∈ xs, sampleFits fmt x = true) :
    ∀ (cnt : Nat) {u : FirState Sample}, samplesLegal fmt u → samplesLegal fmt (decimateFrom A cnt u xs).1 := by
  induction xs with
  | nil => exact fun _ _ h => h
  | cons x xs ih =>
    obtain ⟨hx, hrest⟩ := List.forall_mem_cons.1 hxs
    exact fun cnt _ h => ih hrest (cnt + 1) (firPush_samplesLegal h hx)

theorem pushEach_samplesLegal (A : Arith Sample) {vs : List Sample} (hvs : ∀ v ∈ vs, sampleFits fmt v = true) :
    ∀ {u : FirState Sample}, samplesLegal fmt u → samplesLegal fmt (pushEach A u vs).1 := by
  induction vs with
  | nil => exact fun h => h
  | cons v vs ih =>
    obtain ⟨hv, hrest⟩ := List.forall_mem_cons.1 hvs
    exact fun h => ih hrest (firPush_samplesLegal h hv)

/-- The values that one input sample pushes are a product and zeros. -/
theorem sampleFits_of_mem_stuffed {r : Nat} {x v : Sample} (hv : v ∈ stuffed (fpArith fmt) r x) :
    sampleFits fmt v = true := by
  cases r with
  | zero => simp [stuffed] at hv
  | succ k =>
    obtain rfl | hzero := List.mem_cons.1 hv
    · exact sampleFits_fmul fmt _ _
    · exact List.eq_of_mem_replicate hzero ▸ sampleFits_fzero fmt

theorem interpolate_samplesLegal (xs : List Sample) :
    ∀ {u : FirState Sample}, samplesLegal fmt u → samplesLegal fmt (interpolate (fpArith fmt) u xs).1 := by
  induction xs with
  | nil => exact fun h => h
  | cons x xs ih => exact fun h => ih (pushEach_samplesLegal _ (fun _ => sampleFits_of_mem_stuffed) h)

end

/-! ### The receive buffer -/

theorem rxbufLegal_iff {p : Straps} {term : Byte} (h : terminator p.variant = some term) (buf : List Byte) :
    rxbufLegal p buf ↔ overCap p buf.length = false ∧ term ∉ buf := by
  simp only [rxbufLegal, h]

theorem rxbufLegal_nil (p : Straps) : rxbufLegal p [] := by
  cases hv : p.variant <;> simp [rxbufLegal, terminator, hv]

/-- A parser whose byte steps keep the buffer clean leaves it legal once the guard of the call's end has run. -/
theorem guardAt_foldl_rxbufLegal {f : State → Byte → State} {term : Byte}
    (hreceives : ∀ s b, ReceivesFrom s (f s b))
    (hclean : ∀ {s}, RxClean s.straps term s.cat.rxbuf → ∀ b, RxClean (f s b).straps term (f s b).cat.rxbuf)
    {s : State} (hterm : terminator s.straps.variant = some term) (h : rxbufLegal s.straps s.cat.rxbuf)
    (bytes : List Byte) : rxbufLegal s.straps (guardAt (bytes.foldl f s) .callEnd).cat.rxbuf := by
  obtain ⟨hcap, hnot⟩ := (rxbufLegal_iff hterm _).1 h
  have hrun : RxClean (bytes.foldl f s).straps term (bytes.foldl f s).cat.rxbuf :=
    List.foldlRecOn (motive := fun s => RxClean s.straps term s.cat.rxbuf) bytes f ⟨hnot, fun _ => hcap⟩
      fun _ hs b _ => hclean hs b
  have hstraps : (bytes.foldl f s).straps = s.straps := by
    obtain ⟨n, buf, e⟩ := foldl_receives hreceives bytes s
    rw [e]
  obtain ⟨hnot', hcap'⟩ := guardAt_callEnd hrun
  exact (rxbufLegal_iff hterm _).2 ⟨hstraps ▸ hcap', hnot'⟩

/-- A reception keeps the receive buffer legal; on YaesuCat it leaves it alone. -/
theorem receive_rxbufLegal {s : State} (h : rxbufLegal s.straps s.cat.rxbuf) (bytes : List Byte) :
    rxbufLegal s.straps (receive s bytes).cat.rxbuf := by
  have hkw (hterm : terminator s.straps.variant = some kwTerm) :=
    guardAt_foldl_rxbufLegal kwRxByte_receives kwRxByte_clean hterm h bytes
  have hciv (hterm : terminator s.straps.variant = some civEom) :=
    guardAt_foldl_rxbufLegal civRxByte_receives civRxByte_clean hterm h bytes
  unfold receive
  split
  case h_1 hv => exact hkw (by rw [hv]; rfl)
  case h_2 hv => exact hkw (by rw [hv]; rfl)
  case h_3 hv => exact hciv (by rw [hv]; rfl)
  case h_4 => split <;> simpa using h

end Sys2Proof.Machine
end

section
/-! SUPPORT. What an operation writes: the state elements of each unit that it may change, and to what; that every step
keeps the state legal; the state after reset. -/

namespace Sys2Proof.Machine

/-! ### The writers of each unit -/

/-- `CatWrites s i c`: the operation `i` may turn the CAT unit of `s` into `c`. -/
inductive CatWrites (s : State) : Instr → Cat → Prop where
  | unchanged (i : Instr) : CatWrites s i s.cat
  | init : CatWrites s .catInit { s.cat with rxbuf := [], ready := true }
  | shutdown : CatWrites s .catShutdown { s.cat with ready := false }
  | setch {c : Channel} (hfits : channelFits s.straps c = true) :
      CatWrites s (.catSetch c) { s.cat with chan := c, chanSet := true }
  | setptt (b : Bool) : CatWrites s (.catSetptt b) { s.cat with tx := b }
  | regsend (k : Nat) : CatWrites s (.catRegsend k) { s.cat with sendCb := some k }
  | regack (k : Nat) : CatWrites s (.catRegack k) { s.cat with ackCb := some k }
  | received {i : Instr} (hi : receives i = true) (bytes : List Byte) :
      CatWrites s i { s.cat with rxbuf := (receive s bytes).cat.rxbuf }

/-- `RsmpWrites s i u`: the operation `i` may turn the RSMP unit of `s` into `u`. -/
inductive RsmpWrites (s : State) : Instr → FirState Sample → Prop where
  | unchanged (i : Instr) : RsmpWrites s i s.rsmp
  | construct {r t : Nat} (hr : 1 ≤ r) (ht : 1 ≤ t) (hn : 2 ≤ r * t) :
      RsmpWrites s (.rsConstruct r t) (firNew (fpArith s.straps.fp) r t (coeffFor s.straps r t))
  | decimated {input : List Sample} (hfits : ∀ x ∈ input, sampleFits s.straps.fp x = true) :
      RsmpWrites s (.rsDecimate input) (decimate (fpArith s.straps.fp) s.rsmp input).1
  | interpolated (input : List Sample) :
      RsmpWrites s (.rsInterp input) (interpolate (fpArith s.straps.fp) s.rsmp input).1
  | reset : RsmpWrites s .rsReset (firReset (fpArith s.straps.fp) s.rsmp)

@[simp] theorem emitIfReady_cat (s : State) (frame : Frame) : (emitIfReady s frame).cat = s.cat := by
  rw [emitIfReady_eq]

section
variable {s t : State} {i : Instr}

/-- An operation behind a test whose failure refuses goes on where the test succeeds. -/
theorem eq_next_of_guarded {P : Prop} [Decidable P] {o : Host.Outcome State Fault Refusal} {r : Refusal}
    (h : (if P then o else .refused r) = .next t) : P ∧ o = .next t := by
  split at h
  · next hp => exact ⟨hp, h⟩
  · cases h

theorem CatWrites.of_cat_eq (h : t.cat = s.cat) : CatWrites s i t.cat := h ▸ .unchanged i

theorem finish_catWrites {s' : State} {r : Result} (hw : CatWrites s i s'.cat) (h : finish s' r = .next t) :
    CatWrites s i t.cat := by
  rw [finish_next.1 h]
  exact hw

theorem emitIfReady_catWrites {frame : Frame} {r : Result} (h : finish (emitIfReady s frame) r = .next t) :
    CatWrites s i t.cat :=
  finish_catWrites (.of_cat_eq (emitIfReady_cat s frame)) h

theorem emitRow_catWrites {vs : List Variant} {frame : Frame} (h : emitRow s vs frame = .next t) :
    CatWrites s i t.cat :=
  emitIfReady_catWrites (eq_next_of_guarded h).2

theorem emitCivRow_catWrites {rr : Byte} {frame : Frame} (h : emitCivRow s rr frame = .next t) :
    CatWrites s i t.cat := by
  obtain ⟨-, -, rfl⟩ := emitCivRow_next.1 h
  exact .of_cat_eq (emitIfReady_cat s frame)

theorem encodeFrequency_catWrites {f : Nat} {bytes : List Byte} (h : encodeFrequency s f bytes = .next t) :
    CatWrites s i t.cat := by
  obtain ⟨-, rfl⟩ := encodeFrequency_next.1 h
  exact .unchanged i

theorem decodeFrequency_catWrites {o : Option Nat} (h : decodeFrequency s o = .next t) : CatWrites s i t.cat := by
  obtain ⟨f, -, -, rfl⟩ := decodeFrequency_next.1 h
  exact .unchanged i

theorem receive_catWrites (hi : receives i = true) {bytes : List Byte} (h : finish (receive s bytes) .void = .next t) :
    CatWrites s i t.cat := by
  have hcat : (receive s bytes).cat = { s.cat with rxbuf := (receive s bytes).cat.rxbuf } := by
    obtain ⟨n, buf, e⟩ := receive_receives s bytes
    rw [e]
  exact finish_catWrites (hcat ▸ .received hi bytes) h

theorem execCatSetch_catWrites {c : Channel} (h : execCatSetch c s = .next t) : CatWrites s (.catSetch c) t.cat := by
  obtain ⟨hfits, h⟩ := eq_next_of_guarded h
  split at h
  · refine finish_catWrites ?_ h
    simpa [State.setChan] using CatWrites.setch hfits
  · exact finish_catWrites (.unchanged _) h

theorem execCatGetch_catWrites (h : execCatGetch s = .next t) : CatWrites s i t.cat := by
  unfold execCatGetch at h
  split at h <;> exact finish_catWrites (.unchanged i) h

theorem execElAn_catWrites {antenna : Fin 10} (h : execElAn antenna s = .next t) : CatWrites s i t.cat := by
  unfold execElAn at h
  split at h
  · cases h
  · exact emitRow_catWrites h

/-- What an operation that goes on does to the CAT unit. -/
theorem exec_catWrites (h : exec i s = .next t) : CatWrites s i t.cat := by
  have unwritten (hi : isResampler i = true) : CatWrites s i t.cat := .of_cat_eq ((unitsShareNoState i s t h).1 hi).1
  cases i with
  | catInit => exact finish_catWrites .init h
  | catShutdown => exact finish_catWrites .shutdown h
  | catStart => exact finish_catWrites (.unchanged _) h
  | catStop => exact finish_catWrites (.unchanged _) h
  | catSetch c => exact execCatSetch_catWrites h
  | catGetch => exact execCatGetch_catWrites h
  | catSetptt b =>
    refine finish_catWrites ?_ h
    simpa [State.setTx] using CatWrites.setptt b
  | catIstx => exact finish_catWrites (.unchanged _) h
  | catIsrdy => exact finish_catWrites (.unchanged _) h
  | catPortcfg => exact finish_catWrites (.unchanged _) h
  | catRegsend k => exact finish_catWrites (.regsend k) h
  | catRegack k => exact finish_catWrites (.regack k) h
  | catResp bytes => exact receive_catWrites rfl h
  | elSetpwr watts => exact emitIfReady_catWrites (eq_next_of_guarded h).2
  | elSetant antenna => exact emitIfReady_catWrites (eq_next_of_guarded (eq_next_of_guarded h).2).2
  | rsConstruct r t => exact unwritten rfl
  | rsDecimate input => exact unwritten rfl
  | rsInterp input => exact unwritten rfl
  | rsReset => exact unwritten rfl
  | fqEncCiv f => exact encodeFrequency_catWrites h
  | fqDecCiv bytes => exact decodeFrequency_catWrites h
  | fqEncYae f => exact encodeFrequency_catWrites h
  | fqDecYae bytes => exact decodeFrequency_catWrites h
  | fqEncKw f => exact encodeFrequency_catWrites h
  | fqDecKw bytes => exact decodeFrequency_catWrites h
  | mdEncKw m => exact finish_catWrites (.unchanged _) h
  | mdDecKw d => exact finish_catWrites (.unchanged _) h
  | mdEncCiv m => exact finish_catWrites (.unchanged _) h
  | mdDecCiv code => exact finish_catWrites (.unchanged _) h
  | mdEncYae m => exact finish_catWrites (.unchanged _) h
  | mdDecYae code => exact finish_catWrites (.unchanged _) h
  | kwFa f => exact emitRow_catWrites h
  | kwMd code => exact emitRow_catWrites h
  | kwTx => exact emitRow_catWrites h
  | kwRx => exact emitRow_catWrites h
  | elPc watts => exact emitRow_catWrites h
  | elAn antenna => exact execElAn_catWrites h
  | civFreq rr f => exact emitCivRow_catWrites h
  | civMode rr mm => exact emitCivRow_catWrites h
  | civPtt rr p => exact emitCivRow_catWrites h
  | yaeFreq q => exact emitRow_catWrites h
  | yaeMode mm => exact emitRow_catWrites h
  | yaePttOn => exact emitRow_catWrites h
  | yaePttOff => exact emitRow_catWrites h
  | kwRsp before => exact receive_catWrites rfl h
  | civAck x y rest => exact receive_catWrites rfl h
  | civNak x y rest => exact receive_catWrites rfl h
  | civOther before => exact receive_catWrites rfl h
  | yaeRsp bytes => exact receive_catWrites rfl h

/-- What an operation that goes on does to the RSMP unit. -/
theorem exec_rsmpWrites (h : exec i s = .next t) : RsmpWrites s i t.rsmp := by
  cases hi : isResampler i with
  | false => exact (unitsShareNoState i s t h).2 hi ▸ .unchanged i
  | true =>
    cases i with
    | rsConstruct r n =>
      obtain ⟨⟨hr, ht, hn⟩, h⟩ := eq_next_of_guarded h
      rw [finish_next.1 h]
      exact .construct hr ht hn
    | rsDecimate input =>
      obtain ⟨hfits, rfl⟩ := resample_next.1 h
      exact .decimated (List.all_eq_true.1 hfits)
    | rsInterp input =>
      obtain ⟨-, rfl⟩ := resample_next.1 h
      exact .interpolated input
    | rsReset =>
      rw [finish_next.1 h]
      exact .reset
    | _ => cases hi

/-- The elements of the CAT unit that a write changes, and the operation it is. -/
theorem CatWrites.writers {c : Cat} (h : CatWrites s i c) :
    (c.chan ≠ s.cat.chan → i = .catSetch c.chan) ∧
    (c.tx ≠ s.cat.tx → i = .catSetptt c.tx) ∧
    (c.ready ≠ s.cat.ready → i = .catInit ∧ c.ready = true ∨ i = .catShutdown ∧ c.ready = false) ∧
    (c.rxbuf ≠ s.cat.rxbuf → i = .catInit ∨ receives i = true) ∧
    (c.sendCb ≠ s.cat.sendCb → ∃ k, i = .catRegsend k ∧ c.sendCb = some k) ∧
    (c.ackCb ≠ s.cat.ackCb → ∃ k, i = .catRegack k ∧ c.ackCb = some k) := by
  cases h with
  | received hi bytes => simp [hi]
  | _ => simp

/-- The elements of the RSMP unit that a write changes, and the operation it is. -/
theorem RsmpWrites.writers {u : FirState Sample} (h : RsmpWrites s i u) :
    (u.coeff ≠ s.rsmp.coeff → ∃ r n, i = .rsConstruct r n ∧ u.r = r ∧ u.t = n) ∧
    (u.hist ≠ s.rsmp.hist ∨ u.pos ≠ s.rsmp.pos → isResampler i = true) := by
  cases h with
  | unchanged => simp
  | construct => exact ⟨fun _ => ⟨_, _, rfl, rfl, rfl⟩, fun _ => rfl⟩
  | decimated => exact ⟨fun hne => absurd (decimateFrom_keeps _ _ 0 _).2.2.1 hne, fun _ => rfl⟩
  | interpolated input => exact ⟨fun hne => absurd (interpolate_keeps _ input _).2.2.1 hne, fun _ => rfl⟩
  | reset => exact ⟨fun hne => absurd rfl hne, fun _ => rfl⟩

end

/-! ### Every step keeps the state legal -/

section
variable {s : State} {i : Instr}

theorem CatWrites.keeps_rxbufLegal {c : Cat} (h : CatWrites s i c) (hs : rxbufLegal s.straps s.cat.rxbuf) :
    rxbufLegal s.straps c.rxbuf := by
  cases h with
  | init => exact rxbufLegal_nil s.straps
  | received _ bytes => exact receive_rxbufLegal hs bytes
  | _ => exact hs

theorem CatWrites.keeps_channelFits {c : Cat} (h : CatWrites s i c) (hs : channelFits s.straps s.cat.chan = true) :
    channelFits s.straps c.chan = true := by
  cases h with
  | setch hfits => exact hfits
  | _ => exact hs

theorem RsmpWrites.keeps_storageLegal {u : FirState Sample} (h : RsmpWrites s i u) (hp : strapsLegal s.straps = true)
    (hs : storageLegal s.rsmp) : storageLegal u := by
  cases h with
  | unchanged => exact hs
  | construct hr ht hn => exact firNew_storage _ hr ht hn (coeffFor_length hp _ _)
  | decimated => exact (decimateFrom_keeps _ _ 0 _).2.2.2 hs
  | interpolated input => exact (interpolate_keeps _ input _).2.2.2 hs
  | reset => exact firReset_storage _ hs

theorem RsmpWrites.keeps_samplesLegal {u : FirState Sample} (h : RsmpWrites s i u) (hp : strapsLegal s.straps = true)
    (hs : samplesLegal s.straps.fp s.rsmp) : samplesLegal s.straps.fp u := by
  cases h with
  | unchanged => exact hs
  | construct => exact firNew_samplesLegal fun _ => sampleFits_of_mem_coeffFor hp
  | decimated hfits => exact decimateFrom_samplesLegal _ hfits 0 hs
  | interpolated input => exact interpolate_samplesLegal input hs
  | reset => exact firReset_samplesLegal hs

theorem exec_legal {t : State} (hs : Legal s) (h : exec i s = .next t) : Legal t := by
  obtain ⟨hstraps, -, -, -⟩ := exec_frame h
  have hcat := exec_catWrites h
  have hrsmp := exec_rsmpWrites h
  exact {
    straps := hstraps ▸ hs.straps
    storage := hrsmp.keeps_storageLegal hs.straps hs.storage
    samples := hstraps ▸ hrsmp.keeps_samplesLegal hs.straps hs.samples
    rxbuf := hstraps ▸ hcat.keeps_rxbufLegal hs.rxbuf
    channel := hstraps ▸ hcat.keeps_channelFits hs.channel }

/-- The invariant does not speak of the agenda. -/
theorem legal_of_agenda (hs : Legal s) (rest : List Request) : Legal { s with agenda := rest } :=
  ⟨hs.straps, hs.storage, hs.samples, hs.rxbuf, hs.channel⟩

end

/-- Settles O6: a step is idle or an operation, and what an operation writes is legal (`exec_legal`). -/
theorem everyStepKeepsTheStateLegal : Obligations.EveryStepKeepsTheStateLegal := by
  intro s t hs h
  obtain ⟨-, rfl⟩ | ⟨q, rest, i, -, -, hexec⟩ := step_cases h
  · exact hs
  · exact exec_legal (legal_of_agenda hs rest) hexec

/-- Settles O10: the elements that each write of `exec_catWrites` and `exec_rsmpWrites` changes. -/
theorem stateElementsHaveOnlyTheirWriters : Obligations.StateElementsHaveOnlyTheirWriters := by
  intro i s t h
  obtain ⟨hchan, htx, hready, hrxbuf, hsend, hack⟩ := (exec_catWrites h).writers
  obtain ⟨hcoeff, hhist⟩ := (exec_rsmpWrites h).writers
  exact ⟨hchan, htx, hready, hrxbuf, hsend, hack, hcoeff, hhist⟩

/-! ### Reset, registration, construction -/

theorem defaultStraps_legal : strapsLegal defaultStraps = true := by decide

theorem reset_rsmp : State.reset.rsmp = firNew (fpArith .binary64) 6 8 (coeffReference .binary64 6 8) := rfl

/-- Settles O7: the units right after construction with the default straps, which the spec admits. -/
theorem resetStateIsLegal : Obligations.ResetStateIsLegal where
  straps := defaultStraps_legal
  storage := reset_storage
  samples := firNew_samplesLegal fun _ => sampleFits_of_mem_coeffFor defaultStraps_legal
  rxbuf := rxbufLegal_nil defaultStraps
  channel := by decide

/-- The default reference vector, evaluated: 48 finite coefficients whose sum is 1 up to rounding. -/
theorem coeffReference_default_legal : coeffLegal .binary64 6 8 (coeffReference .binary64 6 8) = true := by
  decide +kernel

/-- Settles O8: the fields of `State.constructed`, and the sum of the default coefficients. -/
theorem resetLeavesTheConstructedUnits : Obligations.ResetLeavesTheConstructedUnits := by
  unfold Obligations.ResetLeavesTheConstructedUnits
  rw [reset_rsmp]
  exact ⟨rfl, rfl, rfl, rfl, rfl, rfl, rfl, rfl, rfl, rfl, coeffReference_default_legal⟩

/-- Settles O22: what `State.setSendCb` and `State.setAckCb` write, and the result. -/
theorem registrationReplacesTheCallback : Obligations.RegistrationReplacesTheCallback := fun _ _ =>
  ⟨rfl, rfl⟩

/-- Settles O49: the two sides of the bounds, and the two origins of the vector (`coeffFor_cases`). -/
theorem constructBuildsAZeroedResampler : Obligations.ConstructBuildsAZeroedResampler := by
  intro s r t hp
  refine ⟨fun hin => ⟨if_pos hin, coeffFor_length hp r t, ?_⟩, fun hout => if_neg hout⟩
  obtain ⟨e, he, rfl, rfl, hcoeff⟩ | hnone := coeffFor_cases s.straps r t
  · exact .inl ⟨e, he, rfl, rfl, hcoeff, coeffLegal_of_mem_coeffTable hp he⟩
  · exact .inr hnone

end Sys2Proof.Machine
end

section
/-! SUPPORT. The stored Channel: what CAT.SETCH does to it and what CAT.GETCH reads; CAT.INIT and CAT.STOP. -/

namespace Sys2Proof.Machine

/-! ### CAT.INIT and CAT.STOP -/

theorem exec_catInit (s : State) :
    exec .catInit s = .next { s with cat := { s.cat with rxbuf := [], ready := true }, result := .bool true } := rfl

theorem exec_catStop (s : State) : exec .catStop s = .next { s with result := .bool true } := rfl

/-- Settles O20: CAT.INIT writes constants, so writing them again changes nothing. -/
theorem initAndStopComplete : Obligations.InitAndStopComplete := by
  refine ⟨fun s => ⟨exec_catInit s, exec_catStop s⟩, fun s t h => ?_⟩
  rw [exec_catInit] at h
  cases h
  exact exec_catInit _

/-! ### CAT.SETCH and CAT.GETCH -/

/-- The state after a CAT.SETCH that succeeds. -/
def storeChannel (s : State) (c : Channel) : State :=
  ((emit (emit s (freqFrame s.straps c.rxFrequency)) (modeFrame s.straps c.rxMode)).setChan c).setResult (.bool true)

@[simp] theorem storeChannel_chan (s : State) (c : Channel) : (storeChannel s c).cat.chan = c := rfl
@[simp] theorem storeChannel_chanSet (s : State) (c : Channel) : (storeChannel s c).cat.chanSet = true := rfl
@[simp] theorem storeChannel_result (s : State) (c : Channel) : (storeChannel s c).result = .bool true := rfl

/-- A CAT.SETCH that goes on: it has stored the Channel or changed nothing, and its result says which. -/
theorem exec_catSetch_next {s t : State} {c : Channel} :
    exec (.catSetch c) s = .next t ↔
      channelFits s.straps c = true ∧
        (maySetChannel s = true ∧ t = storeChannel s c ∨
          maySetChannel s = false ∧ t = s.setResult (.bool false)) := by
  change execCatSetch c s = .next t ↔ _
  unfold execCatSetch
  cases hfits : channelFits s.straps c with
  | false => simp
  | true => cases hmay : maySetChannel s <;> simp [finish_next, storeChannel]

/-- A CAT.SETCH with result 1 has stored its Channel. -/
theorem catSetch_eq_of_true {s t : State} {c : Channel} (h : exec (.catSetch c) s = .next t)
    (hres : t.result = .bool true) : t = storeChannel s c := by
  obtain ⟨-, ⟨-, ht⟩ | ⟨-, rfl⟩⟩ := exec_catSetch_next.1 h
  · exact ht
  · cases hres

/-- A CAT.SETCH with result 0 has changed nothing but the result. -/
theorem catSetch_eq_of_false {s t : State} {c : Channel} (h : exec (.catSetch c) s = .next t)
    (hres : t.result = .bool false) : t = s.setResult (.bool false) := by
  obtain ⟨-, ⟨-, rfl⟩ | ⟨-, ht⟩⟩ := exec_catSetch_next.1 h
  · cases hres
  · exact ht

/-- What CAT.GETCH reads: the stored Channel, before any success the free one (U1). -/
def readChannel (s : State) : Channel :=
  if s.cat.chanSet then s.cat.chan else Config.unspecifiedChannel s.freeIndex

theorem readChannel_of_set {s : State} (h : s.cat.chanSet = true) : readChannel s = s.cat.chan := if_pos h

@[simp] theorem readChannel_setResult (s : State) (r : Result) : readChannel (s.setResult r) = readChannel s := rfl

theorem exec_catGetch (s : State) : exec .catGetch s = .next (s.setResult (.channel (readChannel s))) := by
  change execCatGetch s = _
  unfold execCatGetch readChannel
  split <;> rfl

/-- CAT.GETCH where a Channel is stored. -/
theorem exec_catGetch_of_set {s : State} {c : Channel} (hset : s.cat.chanSet = true) (hchan : s.cat.chan = c) :
    exec .catGetch s = .next { s with result := .channel c } := by
  rw [exec_catGetch, readChannel_of_set hset, hchan]
  rfl

/-- CAT.GETCH after CAT.GETCH: the result it overwrites is none of what it reads. -/
theorem exec_catGetch_again (s : State) :
    exec .catGetch (s.setResult (.channel (readChannel s))) = .next (s.setResult (.channel (readChannel s))) := by
  rw [exec_catGetch, readChannel_setResult]
  rfl

/-- Settles O27: a success stores the Channel (`catSetch_eq_of_true`), a failure leaves it (`catSetch_eq_of_false`), and
CAT.GETCH reads without writing (`exec_catGetch`). -/
theorem getChannelReturnsTheLastAccepted : Obligations.GetChannelReturnsTheLastAccepted := by
  refine ⟨fun s hset => exec_catGetch_of_set hset rfl, ?accepted, ?failed,
    fun s => ⟨readChannel s, exec_catGetch s, exec_catGetch_again s⟩⟩
  case accepted =>
    intro s t c h hres
    obtain rfl := catSetch_eq_of_true h hres
    exact exec_catGetch_of_set (storeChannel_chanSet s c) (storeChannel_chan s c)
  case failed =>
    intro s t c c' hset hchan h hres
    obtain rfl := catSetch_eq_of_false h hres
    exact exec_catGetch_of_set hset hchan

end Sys2Proof.Machine
end

section
/-! SUPPORT. Positional fields: BCD bytes and ASCII digits are digits of a number in base 100 and in base 10 (R9, R96, R99),
so a field of fixed length and the number it stands for determine each other (R160 to R165). -/

namespace Sys2Proof.Machine

/-! ### A byte for each digit -/

/-- The bytes `ok` allows stand for the digits below `base`, one for each: `val` reads a byte and `chr` writes a digit. -/
structure DigitCode (base : Nat) (ok : Byte → Bool) (val : Byte → Nat) (chr : Nat → Byte) : Prop where
  one_lt_base : 1 < base
  val_lt : ∀ c, ok c = true → val c < base
  chr_val : ∀ c, ok c = true → chr (val c) = c
  ok_chr : ∀ d < base, ok (chr d) = true
  val_chr : ∀ d < base, val (chr d) = d

/-- The `n` low digits of `f` in a base, each written by `chr`, least significant first. -/
def digitBytes (base : Nat) (chr : Nat → Byte) (n f : Nat) : List Byte :=
  (List.range n).map fun i => chr (f / base ^ i % base)

/-- The low digits of a number are the digits of its remainder. -/
theorem ofDigits_range (base f : Nat) : ∀ n,
    Nat.ofDigits base ((List.range n).map fun i => f / base ^ i % base) = f % base ^ n
  | 0 => by simp [Nat.mod_one]
  | n + 1 => by
    rw [List.range_succ, List.map_append, Nat.ofDigits_append, ofDigits_range base f n, Nat.mod_pow_succ]
    simp

section
variable {base : Nat} {ok : Byte → Bool} {val : Byte → Nat} {chr : Nat → Byte} (h : DigitCode base ok val chr)
include h

theorem DigitCode.digit_lt (f i : Nat) : f / base ^ i % base < base :=
  Nat.mod_lt _ (Nat.zero_lt_of_lt h.one_lt_base)

theorem DigitCode.ok_of_mem_digitBytes {n f : Nat} {c : Byte} (hc : c ∈ digitBytes base chr n f) : ok c = true := by
  obtain ⟨i, -, rfl⟩ := List.mem_map.1 hc
  exact h.ok_chr _ (h.digit_lt f i)

theorem DigitCode.map_val_digitBytes (n f : Nat) :
    (digitBytes base chr n f).map val = (List.range n).map fun i => f / base ^ i % base := by
  simp [digitBytes, h.val_chr _ (h.digit_lt f _)]

/-- What the bytes of a number read as. -/
theorem DigitCode.ofDigits_digitBytes (n f : Nat) :
    Nat.ofDigits base ((digitBytes base chr n f).map val) = f % base ^ n := by
  rw [h.map_val_digitBytes, ofDigits_range]

theorem DigitCode.map_val_lt {cs : List Byte} (hcs : ∀ c ∈ cs, ok c = true) : ∀ d ∈ cs.map val, d < base :=
  List.forall_mem_map.2 fun c hc => h.val_lt c (hcs c hc)

/-- Digits written again from what they read as. -/
theorem DigitCode.map_chr_val {cs : List Byte} (hcs : ∀ c ∈ cs, ok c = true) : (cs.map val).map chr = cs := by
  rw [List.map_map]
  exact (List.map_congr_left fun c hc => h.chr_val c (hcs c hc)).trans (List.map_id cs)

/-- Allowed bytes of the same length that read as the same number are equal. -/
theorem DigitCode.eq_of_ofDigits_eq {cs cs' : List Byte} (hcs : ∀ c ∈ cs, ok c = true) (hcs' : ∀ c ∈ cs', ok c = true)
    (hlen : cs.length = cs'.length)
    (hval : Nat.ofDigits base (cs.map val) = Nat.ofDigits base (cs'.map val)) : cs = cs' := by
  have hdigits : cs.map val = cs'.map val :=
    Nat.ofDigits_inj_of_len_eq h.one_lt_base (by simpa using hlen) (h.map_val_lt hcs) (h.map_val_lt hcs') hval
  rw [← h.map_chr_val hcs, hdigits, h.map_chr_val hcs']

/-- A field of `n` allowed bytes reads as `f` exactly when it is the bytes of `f`, and `f` has no more digits. -/
theorem DigitCode.reads_iff {cs : List Byte} {n f : Nat} :
    ((cs.length = n ∧ ∀ c ∈ cs, ok c = true) ∧ Nat.ofDigits base (cs.map val) = f) ↔
      f < base ^ n ∧ cs = digitBytes base chr n f := by
  constructor
  · rintro ⟨⟨rfl, hcs⟩, rfl⟩
    have hlt : Nat.ofDigits base (cs.map val) < base ^ cs.length := by
      simpa using Nat.ofDigits_lt_base_pow_length h.one_lt_base (h.map_val_lt hcs)
    refine ⟨hlt, h.eq_of_ofDigits_eq hcs (fun c => h.ok_of_mem_digitBytes) (by simp [digitBytes]) ?_⟩
    rw [h.ofDigits_digitBytes, Nat.mod_eq_of_lt hlt]
  · rintro ⟨hlt, rfl⟩
    refine ⟨⟨by simp [digitBytes], fun c => h.ok_of_mem_digitBytes⟩, ?_⟩
    rw [h.ofDigits_digitBytes, Nat.mod_eq_of_lt hlt]

end

/-! ### BCD bytes and ASCII digits -/

theorem bcd_digitCode : DigitCode 100 isBcd bcdValue fun d => bcd (d / 10) (d % 10) where
  one_lt_base := by decide
  val_lt := by decide
  chr_val := by decide
  ok_chr := by decide
  val_chr := by decide

theorem asc_digitCode : DigitCode 10 isAscDigit ascValue ascDigit where
  one_lt_base := by decide
  val_lt := by decide
  chr_val := by decide
  ok_chr := by decide
  val_chr := by decide

/-- Two decimal digits are one digit in base 100. -/
theorem bcd_digits (f i : Nat) :
    bcd (digit f (2 * i + 1)) (digit f (2 * i)) = bcd (f / 100 ^ i % 100 / 10) (f / 100 ^ i % 100 % 10) := by
  have hpow : 10 ^ (2 * i) = 100 ^ i := pow_mul 10 2 i
  have htens : digit f (2 * i + 1) = f / 100 ^ i % 100 / 10 := by
    rw [digit, pow_succ, hpow, ← Nat.div_div_eq_div_mul]
    omega
  have hunits : digit f (2 * i) = f / 100 ^ i % 100 % 10 := by
    rw [digit, hpow]
    omega
  rw [htens, hunits]

theorem encCiv_eq (f : Nat) : encCiv f = digitBytes 100 (fun d => bcd (d / 10) (d % 10)) 5 f :=
  List.map_congr_left fun i _ => bcd_digits f i

theorem encYaeTens_eq (q : Nat) :
    encYaeTens q = (digitBytes 100 (fun d => bcd (d / 10) (d % 10)) 4 q).reverse := by
  have hlow : digitBytes 100 (fun d => bcd (d / 10) (d % 10)) 4 q =
      (List.range 4).map fun i => bcd (digit q (2 * i + 1)) (digit q (2 * i)) :=
    List.map_congr_left fun i _ => (bcd_digits q i).symm
  rw [hlow]
  rfl

theorem asc_eq (v : Nat) : ∀ w, asc v w = (digitBytes 10 ascDigit w v).reverse
  | 0 => rfl
  | w + 1 => by simp [asc, asc_eq v w, digitBytes, List.range_succ, digit]

theorem bcdLsbValue_eq (bs : List Byte) : bcdLsbValue bs = Nat.ofDigits 100 (bs.map bcdValue) := by
  induction bs with
  | nil => rfl
  | cons b bs ih => rw [bcdLsbValue, ih, List.map_cons, Nat.ofDigits_cons]

/-- Reading most significant first, digit after digit, is reading the reversed digits. -/
theorem foldl_eq_ofDigits_reverse (base : Nat) (val : Byte → Nat) (cs : List Byte) :
    cs.foldl (fun f c => f * base + val c) 0 = Nat.ofDigits base (cs.reverse.map val) := by
  induction cs using List.reverseRecOn with
  | nil => rfl
  | append_singleton cs c ih =>
    rw [List.foldl_append, ih, List.reverse_append, List.reverse_singleton, List.singleton_append, List.map_cons,
      Nat.ofDigits_cons, List.foldl_cons, List.foldl_nil, Nat.mul_comm, Nat.add_comm]

/-! ### The three decimal decoders -/

/-- Five BCD bytes decode to `f` exactly when they are its encoding (R160, R161). -/
theorem decCiv_eq_some_iff {bs : List Byte} {f : Nat} : decCiv bs = some f ↔ f < 10 ^ 10 ∧ bs = encCiv f := by
  have hread := bcd_digitCode.reads_iff (cs := bs) (n := 5) (f := f)
  rw [← encCiv_eq, ← bcdLsbValue_eq] at hread
  simpa [decCiv] using hread

/-- Four BCD bytes decode to `q` tens of hertz exactly when they are its encoding (R162, R163). -/
theorem decYaeTens_eq_some_iff {bs : List Byte} {q : Nat} : decYaeTens bs = some q ↔ q < 10 ^ 8 ∧ bs = encYaeTens q := by
  have hread := bcd_digitCode.reads_iff (cs := bs.reverse) (n := 4) (f := q)
  rw [← foldl_eq_ofDigits_reverse, List.reverse_eq_iff, ← encYaeTens_eq] at hread
  simpa [decYaeTens, bcdMsbValue] using hread

/-- A decimal field of width `w` decodes to `v` exactly when it is the field of `v` (R99, R165). -/
theorem decAsc_eq_some_iff {w v : Nat} {cs : List Byte} : decAsc w cs = some v ↔ v < 10 ^ w ∧ cs = asc v w := by
  have hread := asc_digitCode.reads_iff (cs := cs.reverse) (n := w) (f := v)
  rw [← foldl_eq_ofDigits_reverse, List.reverse_eq_iff, ← asc_eq] at hread
  simpa [decAsc, ascFieldValue] using hread

theorem isBcd_of_mem_encCiv {f : Nat} {b : Byte} (hb : b ∈ encCiv f) : isBcd b = true :=
  bcd_digitCode.ok_of_mem_digitBytes (encCiv_eq f ▸ hb)

theorem isAscDigit_of_mem_asc {v w : Nat} {c : Byte} (hc : c ∈ asc v w) : isAscDigit c = true :=
  asc_digitCode.ok_of_mem_digitBytes (List.mem_reverse.1 (asc_eq v w ▸ hc))

@[simp] theorem asc_length (v : Nat) : ∀ w, (asc v w).length = w
  | 0 => rfl
  | w + 1 => by rw [asc, List.length_cons, asc_length v w]

end Sys2Proof.Machine
end

section
/-! SUPPORT. The emitted frames (R101 to R103): the decoder finds a frame's operation from its bytes and nothing else, and a
frame holds its terminator at its end only (R92, R106). -/

namespace Sys2Proof.Machine

/-! ### The frame decoders -/

/-- The bytes are the frame of a well-formed operation of direction tx. -/
structure IsFrameOf (i : Instr) (bs : List Byte) : Prop where
  direction : i.direction = .tx
  wellFormed : i.wellFormed = true
  bytes : encodeBytes i = bs

/-- One decimal digit is a field of width 1. -/
theorem asc_one (d : Nat) : asc d 1 = [ascDigit (Fin.ofNat 10 d).val] := by simp [asc, digit]

theorem decAsc_ascDigit (d : Fin 10) : decAsc 1 [ascDigit d.val] = some d.val :=
  decAsc_eq_some_iff.2 ⟨d.isLt, by simp [asc_one]⟩

theorem isFrameOf_of_decodeKwBody {c0 c1 : Byte} {digits : List Byte} {i : Instr}
    (h : decodeKwBody c0 c1 digits = some i) : IsFrameOf i (kwFrame [c0, c1] digits) := by
  have field {w : Nat} {f : Nat → Instr} (hmap : (decAsc w digits).map f = some i) :
      ∃ v, v < 10 ^ w ∧ digits = asc v w ∧ f v = i := by
    obtain ⟨v, hv, hi⟩ := Option.map_eq_some_iff.1 hmap
    obtain ⟨hlt, hdigits⟩ := decAsc_eq_some_iff.1 hv
    exact ⟨v, hlt, hdigits, hi⟩
  have literal {j : Instr} (hif : (if digits = [] then some j else none) = some i) : digits = [] ∧ j = i := by
    simpa using hif
  unfold decodeKwBody at h
  split at h
  · next hcmd =>
    obtain ⟨rfl, rfl⟩ := hcmd
    obtain ⟨f, hlt, rfl, rfl⟩ := field h
    exact ⟨rfl, decide_eq_true hlt, rfl⟩
  split at h
  · next hcmd =>
    obtain ⟨rfl, rfl⟩ := hcmd
    obtain ⟨d, -, rfl, rfl⟩ := field h
    exact ⟨rfl, rfl, by rw [asc_one]; rfl⟩
  split at h
  · next hcmd =>
    obtain ⟨rfl, rfl⟩ := hcmd
    obtain ⟨rfl, rfl⟩ := literal h
    exact ⟨rfl, rfl, rfl⟩
  split at h
  · next hcmd =>
    obtain ⟨rfl, rfl⟩ := hcmd
    obtain ⟨rfl, rfl⟩ := literal h
    exact ⟨rfl, rfl, rfl⟩
  split at h
  · next hcmd =>
    obtain ⟨rfl, rfl⟩ := hcmd
    obtain ⟨w, hlt, rfl, rfl⟩ := field h
    exact ⟨rfl, decide_eq_true hlt, rfl⟩
  split at h
  · next hcmd =>
    obtain ⟨rfl, rfl⟩ := hcmd
    obtain ⟨d, -, rfl, rfl⟩ := field h
    exact ⟨rfl, rfl, by rw [asc_one]; rfl⟩
  · cases h

theorem isFrameOf_of_decodeCivBody {rr : Byte} {body : List Byte} {i : Instr} (h : decodeCivBody rr body = some i) :
    IsFrameOf i (civFrame rr body) := by
  unfold decodeCivBody at h
  split at h
  · next cmd mm =>
    obtain ⟨rfl, rfl⟩ : cmd = 0x06 ∧ .civMode rr mm = i := by simpa using h
    exact ⟨rfl, rfl, rfl⟩
  · next cmd sub pp =>
    split at h
    · next hcmd =>
      obtain ⟨rfl, rfl⟩ := hcmd
      split at h
      · next hpp =>
        cases h
        exact ⟨rfl, rfl, by rw [hpp]; rfl⟩
      · obtain ⟨rfl, rfl⟩ : pp = 0x00 ∧ .civPtt rr false = i := by simpa using h
        exact ⟨rfl, rfl, rfl⟩
    · cases h
  · next cmd data _ _ =>
    split at h
    · next hcmd =>
      obtain ⟨f, hf, rfl⟩ := Option.map_eq_some_iff.1 h
      obtain ⟨hlt, rfl⟩ := decCiv_eq_some_iff.1 hf
      exact ⟨rfl, decide_eq_true hlt, by rw [hcmd]; rfl⟩
    · cases h
  · cases h

theorem isFrameOf_of_decodeYaeFrame {p1 p2 p3 p4 cmd : Byte} {i : Instr} (h : decodeYaeFrame p1 p2 p3 p4 cmd = some i) :
    IsFrameOf i [p1, p2, p3, p4, cmd] := by
  unfold decodeYaeFrame at h
  split at h
  · next hcmd =>
    obtain ⟨q, hq, rfl⟩ := Option.map_eq_some_iff.1 h
    obtain ⟨hlt, hbytes⟩ := decYaeTens_eq_some_iff.1 hq
    refine ⟨rfl, decide_eq_true hlt, ?_⟩
    rw [encodeBytes, yaeFreqFrame, ← hbytes, hcmd]
    rfl
  split at h
  · next hzero =>
    obtain ⟨rfl, rfl, rfl⟩ := hzero
    split at h
    · next hcmd =>
      cases h
      exact ⟨rfl, rfl, by rw [hcmd]; rfl⟩
    split at h
    · next hcmd =>
      obtain ⟨rfl, rfl⟩ := hcmd
      cases h
      exact ⟨rfl, rfl, rfl⟩
    · obtain ⟨⟨rfl, rfl⟩, rfl⟩ : (cmd = 0x88 ∧ p1 = 0x00) ∧ .yaePttOff = i := by simpa using h
      exact ⟨rfl, rfl, rfl⟩
  · cases h

theorem decodeKwFrame_eq_some {bs : List Byte} {i : Instr} (h : decodeKwFrame bs = some i) :
    ∃ c0 c1 digits, bs = kwFrame [c0, c1] digits ∧ decodeKwBody c0 c1 digits = some i := by
  unfold decodeKwFrame at h
  split at h
  · next c0 c1 rest =>
    split at h
    · next hlast => exact ⟨c0, c1, rest.dropLast, by simp [kwFrame, List.dropLast_append_getLast? _ hlast], h⟩
    · cases h
  · cases h

theorem decodeCivFrame_eq_some {bs : List Byte} {i : Instr} (h : decodeCivFrame bs = some i) :
    ∃ rr body, bs = civFrame rr body ∧ decodeCivBody rr body = some i := by
  unfold decodeCivFrame at h
  split at h
  · next b0 b1 rr ctrl rest =>
    split at h
    · next hform =>
      obtain ⟨rfl, rfl, rfl, hlast⟩ := hform
      exact ⟨rr, rest.dropLast, by simp [civFrame, List.dropLast_append_getLast? _ hlast], h⟩
    · cases h
  · cases h

/-- What an emitted frame may decode to. -/
theorem isFrameOf_of_decodeTx {bs : List Byte} {i : Instr} (h : decodeTx bs = .ok i) : IsFrameOf i bs := by
  have found {o : Option Instr} (ho : (o.map Except.ok).getD (.error DecodeError.unknownFrame) = .ok i) : o = some i := by
    cases o with
    | none => cases ho
    | some j => simpa using ho
  unfold decodeTx at h
  split at h
  · exact isFrameOf_of_decodeYaeFrame (found h)
  · replace h := found h
    split at h
    · obtain ⟨rr, body, rfl, hbody⟩ := decodeCivFrame_eq_some h
      exact isFrameOf_of_decodeCivBody hbody
    · obtain ⟨c0, c1, digits, rfl, hbody⟩ := decodeKwFrame_eq_some h
      exact isFrameOf_of_decodeKwBody hbody

/-! ### The decoder on a frame -/

theorem decodeTx_of_length_ne {bs : List Byte} (h : bs.length ≠ 5) :
    decodeTx bs =
      ((if bs.head? = some 0xFE then decodeCivFrame bs else decodeKwFrame bs).map Except.ok).getD
        (.error .unknownFrame) := by
  unfold decodeTx
  split
  · simp at h
  · rfl

theorem decodeTx_kwFrame {c0 c1 : Byte} {digits : List Byte} {i : Instr} (hlen : digits.length ≠ 2) (hc0 : c0 ≠ 0xFE)
    (h : decodeKwBody c0 c1 digits = some i) : decodeTx (kwFrame [c0, c1] digits) = .ok i := by
  have hframe : decodeKwFrame (kwFrame [c0, c1] digits) = some i := by simp [decodeKwFrame, kwFrame, h]
  have hhead : (kwFrame [c0, c1] digits).head? ≠ some 0xFE := by simpa [kwFrame] using hc0
  rw [decodeTx_of_length_ne (by simpa [kwFrame] using hlen), if_neg hhead, hframe]
  rfl

theorem decodeTx_civFrame {rr : Byte} {body : List Byte} {i : Instr} (hne : body ≠ [])
    (h : decodeCivBody rr body = some i) : decodeTx (civFrame rr body) = .ok i := by
  have hframe : decodeCivFrame (civFrame rr body) = some i := by simp [decodeCivFrame, civFrame, h]
  rw [decodeTx_of_length_ne (by simp [civFrame, hne]), if_pos (by simp [civFrame]), hframe]
  rfl

theorem decodeTx_five {p1 p2 p3 p4 cmd : Byte} {i : Instr} (h : decodeYaeFrame p1 p2 p3 p4 cmd = some i) :
    decodeTx [p1, p2, p3, p4, cmd] = .ok i := by
  simp [decodeTx, h]

theorem decodeTx_yaeFreqFrame {q : Nat} (h : q < 10 ^ 8) : decodeTx (yaeFreqFrame q) = .ok (.yaeFreq q) := by
  have hdec : (decYaeTens (encYaeTens q)).map Instr.yaeFreq = some (.yaeFreq q) := by
    rw [decYaeTens_eq_some_iff.2 ⟨h, rfl⟩]
    rfl
  exact decodeTx_five hdec

theorem decodeTx_encodeBytes {i : Instr} (hd : i.direction = .tx) (hw : i.wellFormed = true) :
    decodeTx (encodeBytes i) = .ok i := by
  cases i with
  | kwFa f =>
    have hdec : decAsc 11 (asc f 11) = some f := decAsc_eq_some_iff.2 ⟨of_decide_eq_true hw, rfl⟩
    exact decodeTx_kwFrame (by simp [encKw]) (by decide) (by simp [decodeKwBody, encKw, hdec])
  | kwMd code => exact decodeTx_kwFrame (by simp) (by decide) (by simp [decodeKwBody, decAsc_ascDigit])
  | kwTx => rfl
  | kwRx => rfl
  | elPc w =>
    have hdec : decAsc 3 (asc w 3) = some w := decAsc_eq_some_iff.2 ⟨of_decide_eq_true hw, rfl⟩
    exact decodeTx_kwFrame (by simp) (by decide) (by simp [decodeKwBody, hdec])
  | elAn a => exact decodeTx_kwFrame (by simp) (by decide) (by simp [decodeKwBody, decAsc_ascDigit])
  | civFreq rr f =>
    have hdec : (decCiv (encCiv f)).map (Instr.civFreq rr) = some (.civFreq rr f) := by
      rw [decCiv_eq_some_iff.2 ⟨of_decide_eq_true hw, rfl⟩]
      rfl
    exact decodeTx_civFrame (by simp) hdec
  | civMode rr mm => exact decodeTx_civFrame (by simp) (by simp [decodeCivBody])
  | civPtt rr p => cases p <;> exact decodeTx_civFrame (by simp) (by simp [decodeCivBody])
  | yaeFreq q => exact decodeTx_yaeFreqFrame (of_decide_eq_true hw)
  | yaeMode mm => exact decodeTx_five (by simp [decodeYaeFrame])
  | yaePttOn => rfl
  | yaePttOff => rfl
  | _ => cases hd

/-! ### The terminator of a frame -/

/-- A CI-V frame ends in its end marker and holds it nowhere else, where neither the address nor the body does (R106). -/
theorem civFrame_terminator {rr : Byte} {body : List Byte} (hrr : rr ≠ civEom) (hbody : civEom ∉ body) :
    (civFrame rr body).getLast? = some civEom ∧ civEom ∉ (civFrame rr body).dropLast := by
  have hhead : civEom ∉ [0xFE, 0xFE, rr, 0xE0] := by simpa [civEom] using hrr.symm
  constructor
  · rw [civFrame, List.getLast?_concat]
  · rw [civFrame, List.dropLast_concat]
    exact fun h => (List.mem_append.1 h).elim hhead hbody

theorem civEom_notMem_encCiv (f : Nat) : civEom ∉ encCiv f := fun h =>
  absurd (isBcd_of_mem_encCiv h) (by decide)

/-- An ASCII frame ends in its terminator, and its other bytes are characters other than the terminator. -/
theorem kwFrame_terminator {cmd digits : List Byte} (hcmd : ∀ b ∈ cmd, b ≠ kwTerm ∧ b.msb = false)
    (hdigits : ∀ b ∈ digits, isAscDigit b = true) :
    (kwFrame cmd digits).getLast? = some kwTerm ∧ kwTerm ∉ (kwFrame cmd digits).dropLast ∧
      ∀ b ∈ kwFrame cmd digits, b.msb = false := by
  have hdigit : ∀ b : Byte, isAscDigit b = true → b ≠ kwTerm ∧ b.msb = false := by decide
  have hchar : ∀ b ∈ cmd ++ digits, b ≠ kwTerm ∧ b.msb = false :=
    List.forall_mem_append.2 ⟨hcmd, fun b hb => hdigit b (hdigits b hb)⟩
  refine ⟨by simp [kwFrame], ?_, ?_⟩
  · rw [kwFrame, List.dropLast_concat]
    exact fun h => (hchar _ h).1 rfl
  · exact List.forall_mem_append.2 ⟨fun b hb => (hchar b hb).2, by decide⟩

/-- Settles O34: no BCD byte is FD (`civEom_notMem_encCiv`), and ASCII digits and command letters are no ';'. -/
theorem emittedFramesHaveOneTerminator : Obligations.EmittedFramesHaveOneTerminator := by
  refine ⟨fun rr mm f p hrr hmm => ?civ, fun f w d a => ?ascii⟩
  case civ =>
    simp only [List.forall_mem_cons, List.not_mem_nil, false_implies, implies_true, and_true]
    have hptt : civEom ∉ [0x1C, 0x00, if p then 0x01 else 0x00] := by cases p <;> decide
    exact ⟨civFrame_terminator hrr (by simpa [civEom] using civEom_notMem_encCiv f),
      civFrame_terminator hrr (by simpa [civEom] using hmm.symm), civFrame_terminator hrr hptt⟩
  case ascii =>
    simp only [List.forall_mem_cons, List.not_mem_nil, false_implies, implies_true, and_true]
    have hdigit (k : Fin 10) : ∀ b ∈ [ascDigit k.val], isAscDigit b = true := by
      simpa using asc_digitCode.ok_chr k k.isLt
    exact ⟨kwFrame_terminator (by decide) fun _ => isAscDigit_of_mem_asc,
      kwFrame_terminator (by decide) (hdigit d), kwFrame_terminator (by decide) (by simp),
      kwFrame_terminator (by decide) (by simp), kwFrame_terminator (by decide) fun _ => isAscDigit_of_mem_asc,
      kwFrame_terminator (by decide) (hdigit a)⟩

end Sys2Proof.Machine
end

section
/-! SUPPORT. The received patterns (R104): received bytes are one of the variant's patterns or the operand of a CAT.RESP. -/

namespace Sys2Proof.Machine

/-- The bytes arrive as the pattern `i` on the variant `v`. -/
structure IsPatternOf (v : Variant) (i : Instr) (bs : List Byte) : Prop where
  direction : i.direction = .rx
  variant : v ∈ i.variants
  bytes : encodeBytes i = bs

/-- Whatever a CI-V frame is taken for, its bytes are that pattern's. -/
theorem isPatternOf_classifyCiv (body : List Byte) : IsPatternOf .icomCiv (classifyCiv body) (body ++ [civEom]) := by
  have other : IsPatternOf .icomCiv (.civOther body) (body ++ [civEom]) := ⟨rfl, List.mem_singleton_self _, rfl⟩
  unfold classifyCiv
  split
  · split
    · next hpreamble =>
      obtain ⟨rfl, rfl⟩ := hpreamble
      split
      · next hcode => exact ⟨rfl, List.mem_singleton_self _, by rw [hcode]; rfl⟩
      split
      · next hcode => exact ⟨rfl, List.mem_singleton_self _, by rw [hcode]; rfl⟩
      · exact other
    · exact other
  · exact other

/-- The code byte of neither CIV.ACK nor CIV.NAK (R229). -/
theorem classifyCiv_of_isOther {body : List Byte} (h : isOtherCivBody body = true) : classifyCiv body = .civOther body := by
  unfold classifyCiv
  split
  · next b0 b1 x y code rest =>
    have hcode : (¬ b0 = 0xFE ∨ ¬ b1 = 0xFE) ∨ ¬ code = 0xFB ∧ ¬ code = 0xFA := by simpa [isOtherCivBody] using h
    split
    · next hpreamble =>
      obtain ⟨hack, hnak⟩ := hcode.resolve_left (by simp [hpreamble])
      rw [if_neg hack, if_neg hnak]
    · rfl
  · rfl

/-- What received bytes may decode to. -/
theorem decodeRx_cases (v : Variant) (bs : List Byte) :
    decodeRx v bs = .catResp bs ∨ IsPatternOf v (decodeRx v bs) bs := by
  have kwRsp (hv : v ∈ [Variant.kenwood, .elecraft]) (hlast : bs.getLast? = some kwTerm) :
      IsPatternOf v (.kwRsp bs.dropLast) bs :=
    ⟨rfl, hv, List.dropLast_append_getLast? _ hlast⟩
  cases v <;> simp only [decodeRx] <;> split
  case kenwood.isTrue h => exact .inr (kwRsp (by decide) h.1)
  case elecraft.isTrue h => exact .inr (kwRsp (by decide) h.1)
  case icomCiv.isTrue h =>
    have hpattern := isPatternOf_classifyCiv bs.dropLast
    rw [List.dropLast_append_getLast? _ h.1] at hpattern
    exact .inr hpattern
  case yaesuCat.isFalse => exact .inr ⟨rfl, List.mem_singleton_self _, rfl⟩
  all_goals exact .inl rfl

theorem decodeRx_kwTerm {v : Variant} {before : List Byte} (hv : v = .kenwood ∨ v = .elecraft) (h : kwTerm ∉ before) :
    decodeRx v (before ++ [kwTerm]) = .kwRsp before := by
  obtain rfl | rfl := hv <;> simp [decodeRx, h]

theorem decodeRx_civEom {body : List Byte} (h : civEom ∉ body) :
    decodeRx .icomCiv (body ++ [civEom]) = classifyCiv body := by
  simp [decodeRx, h]

theorem civEom_notMem_of_code {x y code : Byte} {rest : List Byte} (hcode : code ≠ civEom)
    (h : (!(x :: y :: rest).contains 0xFD) = true) : civEom ∉ [0xFE, 0xFE, x, y, code] ++ rest := by
  obtain ⟨hx, hy, hrest⟩ : civEom ≠ x ∧ civEom ≠ y ∧ civEom ∉ rest := by simpa [civEom] using h
  have hpreamble : civEom ≠ 0xFE#8 := by decide
  simp [hpreamble, hx, hy, hcode.symm, hrest]

theorem decodeRx_encodeBytes {v : Variant} {i : Instr} (hd : i.direction = .rx) (hv : v ∈ i.variants)
    (hw : i.wellFormed = true) : decodeRx v (encodeBytes i) = i := by
  have icom (h : v ∈ [Variant.icomCiv]) : v = .icomCiv := List.mem_singleton.1 h
  cases i with
  | kwRsp before => exact decodeRx_kwTerm (by simpa [Instr.variants] using hv) (by simpa [Instr.wellFormed, kwTerm] using hw)
  | civAck x y rest =>
    rw [icom hv]
    exact decodeRx_civEom (civEom_notMem_of_code (by decide) hw)
  | civNak x y rest =>
    rw [icom hv]
    exact decodeRx_civEom (civEom_notMem_of_code (by decide) hw)
  | civOther before =>
    obtain ⟨hterm, hother⟩ : civEom ∉ before ∧ isOtherCivBody before = true := by
      simpa [Instr.wellFormed, civEom] using hw
    rw [icom hv]
    exact (decodeRx_civEom hterm).trans (classifyCiv_of_isOther hother)
  | yaeRsp bytes =>
    obtain rfl : v = .yaesuCat := List.mem_singleton.1 hv
    exact if_neg (of_decide_eq_true hw)
  | _ => cases hd

/-- Settles O4: the bytes of a frame (`isFrameOf_of_decodeTx`) and of a pattern (`decodeRx_cases`). -/
theorem wireBytesHaveOneMeaning : Obligations.WireBytesHaveOneMeaning := by
  refine ⟨fun v bs i h => ?frame, fun v bs i h => ?pattern⟩
  case frame =>
    have hframe := isFrameOf_of_decodeTx h
    exact ⟨hframe.direction, hframe.bytes⟩
  case pattern =>
    obtain rfl : decodeRx v bs = i := Except.ok.inj h
    exact (decodeRx_cases v bs).imp_right fun hpattern => ⟨hpattern.direction, hpattern.variant, hpattern.bytes⟩

end Sys2Proof.Machine
end

section
/-! SUPPORT. The model's byte form of the operands of a host request (R91, assumption log 2): what each reader gives back from
the bytes its writer writes, and what it can give from any bytes. -/

namespace Sys2Proof.Machine

/-! ### Reading what was written -/

/-- The reader takes exactly the bytes `put` off the front of a request, and gives `a`. -/
def Reads {α : Type} (take : List Byte → Parsed α) (put : List Byte) (a : α) : Prop :=
  ∀ rest, take (put ++ rest) = .ok (a, rest)

section
variable {α β : Type} {take : List Byte → Parsed α} {put : List Byte} {a : α}

theorem Reads.andThen (h : Reads take put a) {f : α → List Byte → Parsed β} {put' : List Byte} {b : β}
    (hf : Reads (f a) put' b) : Reads (fun bs => Sys2Proof.andThen (take bs) f) (put ++ put') b := by
  intro rest
  have hput := h (put' ++ rest)
  simp only [List.append_assoc, hput]
  exact hf rest

theorem Reads.map (h : Reads take put a) (g : α → β) :
    Reads (fun bs => Sys2Proof.andThen (take bs) fun x rest => .ok (g x, rest)) put (g a) := by
  intro rest
  simp only [h rest]
  rfl

end

theorem reads_takeByte (b : Byte) : Reads takeByte [b] b := fun _ => rfl

theorem andThen_takeByte {β : Type} (b : Byte) (bs : List Byte) (f : Byte → List Byte → Parsed β) :
    andThen (takeByte (b :: bs)) f = f b bs := rfl

theorem reads_takeBytes : ∀ bs : List Byte, Reads (takeBytes bs.length) bs bs
  | [] => fun _ => rfl
  | b :: bs => fun rest => by
    rw [List.length_cons, List.cons_append, takeBytes, reads_takeBytes bs rest]
    rfl

/-! ### Numbers -/

@[simp] theorem leBytes_length : ∀ k n : Nat, (leBytes k n).length = k
  | 0, _ => rfl
  | k + 1, n => by rw [leBytes, List.length_cons, leBytes_length k]

theorem leValue_leBytes : ∀ k n : Nat, leValue (leBytes k n) = n % 256 ^ k
  | 0, n => (Nat.mod_one n).symm
  | k + 1, n => by
    rw [leBytes, leValue, leValue_leBytes k, pow_succ', Nat.mod_mul]
    rfl

theorem leValue_lt : ∀ bs : List Byte, leValue bs < 256 ^ bs.length
  | [] => Nat.one_pos
  | b :: bs => by
    have hb : b.toNat < 256 := b.isLt
    have hbs := leValue_lt bs
    rw [leValue, List.length_cons, pow_succ']
    omega

/-- `byteLength` bytes are enough. -/
theorem lt_pow_byteLength (n : Nat) : n < 256 ^ byteLength n := by
  unfold byteLength
  split
  · next hzero => simp [hzero]
  · calc n < 2 ^ (n.log2 + 1) := Nat.lt_log2_self
      _ ≤ 2 ^ (8 * (n.log2 / 8 + 1)) := Nat.pow_le_pow_right (by decide) (by omega)
      _ = 256 ^ (n.log2 / 8 + 1) := pow_mul 2 8 _

theorem fitsOperand_iff (n : Nat) : fitsOperand n = true ↔ n < 256 ^ 255 := by
  rw [fitsOperand, decide_eq_true_iff, pow_mul 2 8 255]
  rfl

/-- A number that fits an operand has a length that fits the length byte. -/
theorem byteLength_lt {n : Nat} (h : fitsOperand n = true) : byteLength n < 256 := by
  unfold byteLength
  split
  · decide
  · next hne =>
    have hpow : n < 2 ^ (8 * 255) := by
      rw [pow_mul]
      exact (fitsOperand_iff n).1 h
    have hlog := (Nat.log2_lt hne).2 hpow
    omega

theorem reads_takeNat {n : Nat} (h : fitsOperand n = true) : Reads takeNat (putNat n) n := by
  have hlen : (byte (byteLength n)).toNat = (leBytes (byteLength n) n).length := by
    rw [leBytes_length, BitVec.toNat_ofNat, Nat.mod_eq_of_lt (byteLength_lt h)]
  have hvalue : leValue (leBytes (byteLength n) n) = n := by
    rw [leValue_leBytes, Nat.mod_eq_of_lt (lt_pow_byteLength n)]
  have hdigits := (reads_takeBytes (leBytes (byteLength n) n)).map leValue
  rw [hvalue, ← hlen] at hdigits
  exact (reads_takeByte _).andThen hdigits

theorem reads_takeNatOr (dflt : Nat) {n : Nat} (h : fitsOperand n = true) :
    Reads (takeNatOr dflt) (putNatSome n) n :=
  (reads_takeByte 0x01).andThen (put' := putNat n) (reads_takeNat h)

/-! ### Fields of one byte -/

theorem reads_takeBool (b : Bool) : Reads takeBool (putBool b) b := fun _ => by cases b <;> rfl

theorem reads_takeMode (m : RadioMode) : Reads takeMode (putMode m) m := fun _ => by cases m <;> rfl

theorem reads_takeDigit (d : Fin 10) : Reads takeDigit [byte d.val] d := by
  have hd : (byte d.val).toNat = d.val := Nat.mod_eq_of_lt (d.isLt.trans (by decide))
  intro rest
  simp [takeDigit, andThen_takeByte, hd]

theorem takeField_cons (w : Nat) (b : Byte) (bs : List Byte) :
    takeField w (b :: bs) =
      if b.toNat < 2 ^ w then .ok (BitVec.ofNat w b.toNat, bs) else .error (.fieldTooWide b) := rfl

theorem reads_takeField {w : Nat} (hw : w ≤ 8) (x : BitVec w) : Reads (takeField w) [byte x.toNat] x := by
  have hx : (byte x.toNat).toNat = x.toNat :=
    Nat.mod_eq_of_lt (x.isLt.trans_le (Nat.pow_le_pow_right (by decide) hw))
  intro rest
  rw [List.singleton_append, takeField_cons, hx, if_pos x.isLt, BitVec.ofNat_toNat, BitVec.setWidth_eq]

/-! ### Samples and Channels -/

theorem reads_takeSamples (xs : List Sample) : Reads (takeSamples xs.length) (putSamples xs) xs := by
  induction xs with
  | nil => exact fun _ => rfl
  | cons x xs ih =>
    have hvalue : BitVec.ofNat 64 (leValue (leBytes 8 x.toNat)) = x := by
      have hx : x.toNat < 256 ^ 8 := x.isLt
      rw [leValue_leBytes, Nat.mod_eq_of_lt hx, BitVec.ofNat_toNat, BitVec.setWidth_eq]
    have hfirst := reads_takeBytes (leBytes 8 x.toNat)
    rw [leBytes_length] at hfirst
    have hall : Reads (takeSamples (x :: xs).length) (putSamples (x :: xs))
        (BitVec.ofNat 64 (leValue (leBytes 8 x.toNat)) :: xs) := hfirst.andThen (ih.map _)
    rwa [hvalue] at hall

theorem reads_takeChannel {c : Channel} (h : (Instr.catSetch c).wellFormed = true) :
    Reads takeChannel (putChannel c) c := by
  obtain ⟨⟨⟨hid, htx⟩, hrx⟩, hatt⟩ : ((fitsOperand c.id = true ∧ fitsOperand c.txFrequency = true) ∧
      fitsOperand c.rxFrequency = true) ∧ fitsOperand c.attenuation = true := by simpa [Instr.wellFormed] using h
  simp only [putChannel, List.append_assoc]
  exact (reads_takeNat hid).andThen <| (reads_takeNat htx).andThen <| (reads_takeNat hrx).andThen <|
    (reads_takeMode c.txMode).andThen <| (reads_takeMode c.rxMode).andThen <|
    (reads_takeField (by decide) c.antenna).andThen <| (reads_takeField (by decide) c.power).andThen <|
    (reads_takeNat hatt).andThen <| (reads_takeBool c.inUse).map _

/-! ### What a reader can give -/

/-- Whatever the reader gives has the property. -/
def Yields {α : Type} (p : Parsed α) (P : α → Prop) : Prop := ∀ a rest, p = .ok (a, rest) → P a

section
variable {α β : Type}

theorem yields_ok {P : α → Prop} {a : α} {rest : List Byte} : Yields (.ok (a, rest)) P ↔ P a := by
  constructor
  · exact fun h => h a rest rfl
  · rintro h _ _ ⟨⟩
    exact h

theorem yields_error {P : α → Prop} (e : DecodeError) : Yields (.error e : Parsed α) P := nofun

theorem Yields.andThen {p : Parsed α} {f : α → List Byte → Parsed β} {P : α → Prop} {Q : β → Prop} (hp : Yields p P)
    (hf : ∀ a rest, P a → Yields (f a rest) Q) : Yields (Sys2Proof.andThen p f) Q := by
  intro b rest h
  cases p with
  | error e => cases h
  | ok x => exact hf x.1 x.2 (hp _ _ rfl) b rest h

theorem yields_true (p : Parsed α) : Yields p fun _ => True := fun _ _ _ => trivial

end

theorem yields_takeBytes : ∀ (n : Nat) (bs : List Byte), Yields (takeBytes n bs) fun xs => xs.length = n
  | 0, _ => yields_ok.2 rfl
  | _ + 1, [] => yields_error _
  | n + 1, _ :: bs => (yields_takeBytes n bs).andThen fun _ _ hlen => yields_ok.2 (congrArg (· + 1) hlen)

theorem yields_takeSamples : ∀ (n : Nat) (bs : List Byte), Yields (takeSamples n bs) fun xs => xs.length = n
  | 0, _ => yields_ok.2 rfl
  | n + 1, bs => (yields_true (takeBytes 8 bs)).andThen fun _ rest _ =>
    (yields_takeSamples n rest).andThen fun _ _ hlen => yields_ok.2 (congrArg (· + 1) hlen)

/-- The length byte bounds the number: 255 bytes at most. -/
theorem yields_takeNat (bs : List Byte) : Yields (takeNat bs) fun n => fitsOperand n = true := by
  refine (yields_true _).andThen fun k bs _ => (yields_takeBytes k.toNat bs).andThen fun xs _ hlen => yields_ok.2 ?_
  have hk : k.toNat ≤ 255 := Nat.le_of_lt_succ k.isLt
  rw [fitsOperand_iff]
  calc leValue xs < 256 ^ xs.length := leValue_lt xs
    _ ≤ 256 ^ 255 := Nat.pow_le_pow_right (by decide) (hlen ▸ hk)

theorem yields_takeNatOr {dflt : Nat} (h : fitsOperand dflt = true) (bs : List Byte) :
    Yields (takeNatOr dflt bs) fun n => fitsOperand n = true := by
  refine (yields_true _).andThen fun tag bs _ => ?_
  split
  · exact yields_ok.2 h
  split
  · exact yields_takeNat bs
  · exact yields_error _

theorem yields_takeChannel (bs : List Byte) :
    Yields (takeChannel bs) fun c => (Instr.catSetch c).wellFormed = true := by
  refine (yields_takeNat bs).andThen fun id _ hid => (yields_takeNat _).andThen fun txf _ htx =>
    (yields_takeNat _).andThen fun rxf _ hrx => (yields_true _).andThen fun _ _ _ => (yields_true _).andThen fun _ _ _ =>
    (yields_true _).andThen fun _ _ _ => (yields_true _).andThen fun _ _ _ => (yields_takeNat _).andThen fun att _ hatt =>
    (yields_true _).andThen fun _ _ _ => yields_ok.2 ?_
  simp [Instr.wellFormed, hid, htx, hrx, hatt]

end Sys2Proof.Machine
end

section
/-! SUPPORT. The host operations (R100): each `op` code reads back the operation that writes it, what it can read is well
formed, and a code outside R100 is refused; the decoder and the encoder as a whole. -/

namespace Sys2Proof.Machine

/-! ### Reading back a host operation -/

/-- A request whose `op` code reads its operands with no byte left over. -/
theorem decodeHost_of_reads {op : Byte} {put : List Byte} {i : Instr} (h : Reads (decodeOperation op) put i) :
    decodeHost (op :: put) = .ok i := by
  have hput := h []
  rw [List.append_nil] at hput
  rw [decodeHost, decodeHostFront, hput]

/-- An antenna operand counts from 0, the antenna from 1 (R209, D21). -/
theorem reads_elSetant (a : Byte) : Reads (decodeOperation 0x0E) [a - 1] (.elSetant a) := by
  have hread := (reads_takeByte (a - 1)).map fun b => Instr.elSetant (b + 1)
  rwa [BitVec.sub_add_cancel] at hread

/-- The digits of FQ.DEC.KW travel as values, not as characters (R165). -/
theorem reads_fqDecKw {cs : List Byte} (h : cs.length = 11) :
    Reads (decodeOperation 0x25) (cs.map (· - 0x30)) (.fqDecKw cs) := by
  have hlen : (cs.map (· - 0x30)).length = 11 := by rw [List.length_map, h]
  have hback : (cs.map (· - 0x30)).map (· + 0x30) = cs := by
    rw [List.map_map]
    exact (List.map_congr_left fun c _ => BitVec.sub_add_cancel c 0x30).trans (List.map_id cs)
  have hread := (reads_takeBytes (cs.map (· - 0x30))).map fun cs => Instr.fqDecKw (cs.map (· + 0x30))
  rwa [hlen, hback] at hread

theorem decodeHost_encodeBytes {i : Instr} (hd : i.direction = .host) (hw : i.wellFormed = true) :
    decodeHost (encodeBytes i) = .ok i := by
  cases i with
  | catSetch c => exact decodeHost_of_reads ((reads_takeChannel hw).map Instr.catSetch)
  | catSetptt b => exact decodeHost_of_reads ((reads_takeBool b).map Instr.catSetptt)
  | catRegsend k => exact decodeHost_of_reads ((reads_takeNat hw).map Instr.catRegsend)
  | catRegack k => exact decodeHost_of_reads ((reads_takeNat hw).map Instr.catRegack)
  | catResp bytes => exact decodeHost_of_reads ((reads_takeNat hw).andThen ((reads_takeBytes bytes).map Instr.catResp))
  | elSetpwr w => exact decodeHost_of_reads ((reads_takeNat hw).map Instr.elSetpwr)
  | elSetant a => exact decodeHost_of_reads (reads_elSetant a)
  | rsConstruct r t =>
    obtain ⟨hr, ht⟩ : fitsOperand r = true ∧ fitsOperand t = true := by simpa [Instr.wellFormed] using hw
    exact decodeHost_of_reads ((reads_takeNatOr 6 hr).andThen ((reads_takeNatOr 8 ht).map (Instr.rsConstruct r)))
  | rsDecimate xs => exact decodeHost_of_reads ((reads_takeNat hw).andThen ((reads_takeSamples xs).map Instr.rsDecimate))
  | rsInterp xs => exact decodeHost_of_reads ((reads_takeNat hw).andThen ((reads_takeSamples xs).map Instr.rsInterp))
  | fqEncCiv f => exact decodeHost_of_reads ((reads_takeNat hw).map Instr.fqEncCiv)
  | fqDecCiv bytes =>
    have hread := (reads_takeBytes bytes).map Instr.fqDecCiv
    rw [of_decide_eq_true hw] at hread
    exact decodeHost_of_reads hread
  | fqEncYae f => exact decodeHost_of_reads ((reads_takeNat hw).map Instr.fqEncYae)
  | fqDecYae bytes =>
    have hread := (reads_takeBytes bytes).map Instr.fqDecYae
    rw [of_decide_eq_true hw] at hread
    exact decodeHost_of_reads hread
  | fqEncKw f => exact decodeHost_of_reads ((reads_takeNat hw).map Instr.fqEncKw)
  | fqDecKw cs => exact decodeHost_of_reads (reads_fqDecKw (of_decide_eq_true hw))
  | mdEncKw m => exact decodeHost_of_reads ((reads_takeMode m).map Instr.mdEncKw)
  | mdDecKw d => exact decodeHost_of_reads ((reads_takeDigit d).map Instr.mdDecKw)
  | mdEncCiv m => exact decodeHost_of_reads ((reads_takeMode m).map Instr.mdEncCiv)
  | mdDecCiv code => exact decodeHost_of_reads ((reads_takeByte code).map Instr.mdDecCiv)
  | mdEncYae m => exact decodeHost_of_reads ((reads_takeMode m).map Instr.mdEncYae)
  | mdDecYae code => exact decodeHost_of_reads ((reads_takeByte code).map Instr.mdDecYae)
  | catInit | catShutdown | catStart | catStop | catGetch | catIstx | catIsrdy | catPortcfg | rsReset => rfl
  | _ => cases hd

/-! ### What a host request can decode to -/

/-- An operation of one operand is well formed where every operand its reader can give makes it so. -/
theorem Yields.operand {α : Type} {p : Parsed α} {P : α → Prop} {f : α → Instr} (hp : Yields p P)
    (hf : ∀ a, P a → (f a).wellFormed = true) : Yields (Sys2Proof.operand p f) fun i => i.wellFormed = true :=
  hp.andThen fun a _ ha => yields_ok.2 (hf a ha)

/-- An operation that is well formed for every operand. -/
theorem yields_operand {α : Type} (p : Parsed α) {f : α → Instr} (hf : ∀ a, (f a).wellFormed = true) :
    Yields (operand p f) fun i => i.wellFormed = true :=
  (yields_true p).operand fun a _ => hf a

/-- One case for each `op` code, in the order of R100; the last is that of the codes outside it. -/
theorem decodeOperation_wellFormed (op : Byte) (bs : List Byte) :
    Yields (decodeOperation op bs) fun i => i.wellFormed = true := by
  have counted {α : Type} {take : Nat → List Byte → Parsed (List α)} {f : List α → Instr}
      (htake : ∀ n bs, Yields (take n bs) fun xs => xs.length = n)
      (hf : ∀ xs, fitsOperand xs.length = true → (f xs).wellFormed = true) :
      Yields (andThen (takeNat bs) fun n bs => operand (take n bs) f) fun i => i.wellFormed = true :=
    (yields_takeNat bs).andThen fun n bs hn => (htake n bs).operand fun xs hlen => hf xs (hlen ▸ hn)
  unfold decodeOperation
  split
  case h_5 => exact (yields_takeChannel bs).operand fun _ => id
  case h_7 => exact yields_operand _ fun _ => rfl
  case h_11 => exact (yields_takeNat bs).operand fun _ => id
  case h_12 => exact (yields_takeNat bs).operand fun _ => id
  case h_13 => exact counted yields_takeBytes fun _ => id
  case h_14 => exact (yields_takeNat bs).operand fun _ => id
  case h_15 => exact yields_operand _ fun _ => rfl
  case h_16 =>
    have hsix : fitsOperand 6 = true := (fitsOperand_iff 6).2 (by decide)
    have height : fitsOperand 8 = true := (fitsOperand_iff 8).2 (by decide)
    exact (yields_takeNatOr hsix bs).andThen fun r bs hr => (yields_takeNatOr height bs).operand fun t ht => by
      simp [Instr.wellFormed, hr, ht]
  case h_17 => exact counted yields_takeSamples fun _ => id
  case h_18 => exact counted yields_takeSamples fun _ => id
  case h_20 => exact (yields_takeNat bs).operand fun _ => id
  case h_21 => exact (yields_takeBytes 5 bs).operand fun _ => decide_eq_true
  case h_22 => exact (yields_takeNat bs).operand fun _ => id
  case h_23 => exact (yields_takeBytes 4 bs).operand fun _ => decide_eq_true
  case h_24 => exact (yields_takeNat bs).operand fun _ => id
  case h_25 => exact (yields_takeBytes 11 bs).operand fun cs hlen => decide_eq_true (by rw [List.length_map, hlen])
  case h_26 | h_27 | h_28 | h_29 | h_30 | h_31 => exact yields_operand _ fun _ => rfl
  case h_32 => exact yields_error _
  all_goals exact yields_ok.2 rfl

theorem wellFormed_of_decodeHost {bs : List Byte} {i : Instr} (h : decodeHost bs = .ok i) : i.wellFormed = true := by
  unfold decodeHost at h
  split at h
  · cases h
  · next j hfront =>
    obtain rfl : j = i := Except.ok.inj h
    cases bs with
    | nil => cases hfront
    | cons op operands => exact decodeOperation_wellFormed op operands _ _ hfront
  · cases h

/-! ### Codes outside R100 -/

/-- The `op` codes between the groups of R100 and above the last. -/
def noOperation (op : Byte) : Prop :=
  0x0E < op.toNat ∧ op.toNat < 0x10 ∨ 0x13 < op.toNat ∧ op.toNat < 0x20 ∨ 0x25 < op.toNat ∧ op.toNat < 0x28 ∨
    0x2D < op.toNat

theorem decodeOperation_of_noOperation {op : Byte} (h : noOperation op) (bs : List Byte) :
    decodeOperation op bs = .error (.unknownOperation op) := by
  unfold noOperation at h
  unfold decodeOperation
  split
  case h_32 => rfl
  all_goals omega

/-! ### The obligations -/

/-- Settles O3: by direction, `decodeHost_encodeBytes`, `decodeTx_encodeBytes` and `decodeRx_encodeBytes`. -/
theorem decodeOfEncodeIsTheOperation : Obligations.DecodeOfEncodeIsTheOperation := by
  intro v i hw hv
  unfold decode encode
  cases hd : i.direction with
  | host => exact decodeHost_encodeBytes hd hw
  | tx => exact decodeTx_encodeBytes hd hw
  | rx => exact congrArg Except.ok (decodeRx_encodeBytes hd (hv hd) hw)

/-- Settles O5: what the operand readers can give (`decodeOperation_wellFormed`), and what a frame can be
(`isFrameOf_of_decodeTx`). -/
theorem decodedOperationIsWellFormed : Obligations.DecodedOperationIsWellFormed := by
  rintro v ⟨dir, bs⟩ i hdir h
  cases dir with
  | host => exact wellFormed_of_decodeHost h
  | tx => exact (isFrameOf_of_decodeTx h).wellFormed
  | rx => exact absurd rfl hdir

/-- Settles O2: each word is the encoding of its operation, written out. -/
theorem writtenOutWordsDecode : Obligations.WrittenOutWordsDecode := by
  unfold Obligations.WrittenOutWordsDecode
  decide

/-- Settles O30: the gaps of R100 (`decodeOperation_of_noOperation`), and the two tests of the Elecraft operations. -/
theorem whatSelectsNoOperationIsRefused : Obligations.WhatSelectsNoOperationIsRefused := by
  refine fun s => ⟨fun op operands rest ha hop => step_bad ha ?_, fun hv w a => ⟨if_neg hv, if_neg hv⟩, fun hv a h1 h2 => ?_⟩
  · have hop := decodeOperation_of_noOperation hop operands
    rw [decode, decodeHost, decodeHostFront, hop]
  · exact (if_pos hv).trans (if_neg (not_or.2 ⟨h1, h2⟩))

end Sys2Proof.Machine
end

section
/-! SUPPORT. Whole patterns arriving in one call: a terminator after bytes that hold none (R104, R207, R226 to R229). -/

namespace Sys2Proof.Machine

/-! ### Up to the terminator -/

/-- Bytes that end no frame may change the receive buffer only. -/
theorem foldl_setRxbuf {term : Byte} {f : State → Byte → State} (hf : KeepsBytes term f) {bytes : List Byte}
    (hb : term ∉ bytes) (s : State) : ∃ buf, bytes.foldl f s = s.setRxbuf buf := by
  induction bytes generalizing s with
  | nil => exact ⟨s.cat.rxbuf, rfl⟩
  | cons b bs ih =>
    obtain ⟨hne, hbs⟩ : term ≠ b ∧ term ∉ bs := by simpa using hb
    obtain ⟨buf, hstep⟩ : ∃ buf, f s b = s.setRxbuf buf := by
      rw [hf s b hne.symm]
      obtain ⟨-, -, hclear⟩ | ⟨-, hkeep⟩ := rxKeep_cases s b
      · exact ⟨_, hclear⟩
      · exact ⟨_, hkeep⟩
    obtain ⟨buf', hrest⟩ := ih hbs (s.setRxbuf buf)
    exact ⟨buf', by rw [List.foldl_cons, hstep, hrest]; rfl⟩

/-- Bytes that end no frame and stay under the cap are appended. -/
theorem foldl_underCap {term : Byte} {f : State → Byte → State} (hf : KeepsBytes term f) {bytes : List Byte}
    (hb : term ∉ bytes) {s : State}
    (hcap : s.straps.rxGuard.place = .callEnd ∨ overCap s.straps (s.cat.rxbuf.length + bytes.length) = false) :
    bytes.foldl f s = s.setRxbuf (s.cat.rxbuf ++ bytes) := by
  obtain hplace | hcap := hcap
  · exact foldl_callEnd hf bytes hb s hplace
  induction bytes generalizing s with
  | nil => simp [State.setRxbuf]
  | cons b bs ih =>
    obtain ⟨hne, hbs⟩ : term ≠ b ∧ term ∉ bs := by simpa using hb
    rw [overCap_eq_false_iff, List.length_cons] at hcap
    have hunder : overCap s.straps (s.cat.rxbuf.length + 1) = false := by
      rw [overCap_eq_false_iff]
      omega
    have hstep : f s b = s.setRxbuf (s.cat.rxbuf ++ [b]) := by
      rw [hf s b hne.symm]
      obtain ⟨-, hover, -⟩ | ⟨-, hkeep⟩ := rxKeep_cases s b
      · rw [hunder] at hover
        cases hover
      · exact hkeep
    rw [List.foldl_cons, hstep, ih hbs]
    · rw [setRxbuf_rxbuf, List.append_assoc]
      rfl
    · rw [overCap_eq_false_iff, setRxbuf_straps, setRxbuf_rxbuf, List.length_append, List.length_singleton]
      omega

/-- A guard finds nothing to do on an empty buffer. -/
theorem guardAt_setRxbuf_nil (s : State) (place : GuardPlace) : guardAt (s.setRxbuf []) place = s.setRxbuf [] := by
  obtain ⟨-, hover, -⟩ | ⟨-, hkeep⟩ := guardAt_cases (s.setRxbuf []) place
  · simp at hover
  · exact hkeep

/-! ### Kenwood and Elecraft -/

theorem kwRxByte_kwTerm (s : State) : kwRxByte s kwTerm = (ack s).setRxbuf [] := by
  obtain ⟨-, h⟩ | ⟨hne, -⟩ | ⟨hne, -⟩ := kwRxByte_cases s kwTerm
  · exact h
  · exact absurd rfl hne
  · exact absurd rfl hne

theorem receive_kwTerm {s : State} (hv : s.straps.variant = .kenwood ∨ s.straps.variant = .elecraft)
    {before : List Byte} (hb : kwTerm ∉ before) : receive s (before ++ [kwTerm]) = (ack s).setRxbuf [] := by
  have hparser : receive s (before ++ [kwTerm]) = guardAt ((before ++ [kwTerm]).foldl kwRxByte s) .callEnd := by
    obtain hv | hv := hv <;> simp only [receive, hv]
  obtain ⟨buf, hbuf⟩ := foldl_setRxbuf (f := kwRxByte) (fun _ _ hne => if_neg hne) hb s
  have hack : (ack (s.setRxbuf buf)).setRxbuf [] = (ack s).setRxbuf [] := by
    simp only [ack_eq]
    rfl
  rw [hparser, List.foldl_append, hbuf, List.foldl_cons, List.foldl_nil, kwRxByte_kwTerm, hack, guardAt_setRxbuf_nil]

/-- Settles O37: the bytes before the ';' may change the buffer only, and the ';' acknowledges and empties it. -/
theorem kenwoodResponseAcknowledgesOnce : Obligations.KenwoodResponseAcknowledgesOnce := by
  intro s before hv hw
  have hb : kwTerm ∉ before := by simpa [Instr.wellFormed, kwTerm] using hw
  change finish (receive s (before ++ [kwTerm])) .void = _
  rw [receive_kwTerm hv hb, ack_eq]
  rfl

/-! ### IcomCiv -/

/-- The end marker after `body` at an empty buffer: the guard has not cut the frame, and its form decides. -/
theorem receive_civEom {s : State} (hv : s.straps.variant = .icomCiv) (hempty : s.cat.rxbuf = []) {body : List Byte}
    (hb : civEom ∉ body) (hcap : s.straps.rxGuard.place = .callEnd ∨ overCap s.straps body.length = false) :
    (civAcknowledges (body ++ [civEom]) = true ∧
      (s.straps.rxGuard.place ≠ .beforeTest ∨ overCap s.straps (body.length + 1) = false) ∧
      receive s (body ++ [civEom]) = ack s) ∨
    ((civAcknowledges (body ++ [civEom]) = false ∨
        s.straps.rxGuard.place = .beforeTest ∧ overCap s.straps (body.length + 1) = true) ∧
      receive s (body ++ [civEom]) = s) := by
  have hbuf : body.foldl civRxByte s = s.setRxbuf body := by
    rw [foldl_underCap (f := civRxByte) (fun _ _ hne => if_neg hne) hb (by simpa [hempty] using hcap), hempty,
      List.nil_append]
  have hreceive : receive s (body ++ [civEom]) = guardAt (civRxByte (s.setRxbuf body) civEom) .callEnd := by
    simp only [receive, hv, List.foldl_append, hbuf, List.foldl_cons, List.foldl_nil]
  have hback : s.setRxbuf [] = s := by
    rw [← hempty]
    rfl
  obtain ⟨-, hform, hguard, h⟩ | ⟨-, hform, h⟩ | ⟨hne, -⟩ | ⟨hne, -⟩ := civRxByte_cases (s.setRxbuf body) civEom
  · refine .inl ⟨hform, hguard, ?_⟩
    have hack : (ack (s.setRxbuf body)).setRxbuf [] = ack (s.setRxbuf []) := by
      simp only [ack_eq]
      rfl
    rw [hreceive, h, guardAt_setRxbuf_nil, hack, hback]
  · refine .inr ⟨hform, ?_⟩
    have hclear : (s.setRxbuf body).setRxbuf [] = s.setRxbuf [] := rfl
    rw [hreceive, h, hclear, guardAt_setRxbuf_nil, hback]
  · exact absurd rfl hne
  · exact absurd rfl hne

theorem civAcknowledges_code (x y code : Byte) (rest : List Byte) :
    civAcknowledges ([0xFE, 0xFE, x, y, code] ++ rest ++ [civEom]) = decide (code = 0xFB) := by
  simp [civAcknowledges]

/-- A frame that is neither CIV.ACK nor CIV.NAK is too short, or lacks the preamble or the code FB. -/
theorem civAcknowledges_other : ∀ {before : List Byte}, isOtherCivBody before = true →
    civAcknowledges (before ++ [civEom]) = false
  | [], _ | [_], _ | [_, _], _ | [_, _, _], _ | [_, _, _, _], _ => by simp [civAcknowledges]
  | b0 :: b1 :: x :: y :: code :: rest, h => by
    rw [← Bool.not_eq_true]
    intro hack
    obtain ⟨⟨h0, h1⟩, hcode⟩ : (b0 = 0xFE ∧ b1 = 0xFE) ∧ code = 0xFB := by simpa [civAcknowledges] using hack
    simp [isOtherCivBody, h0, h1, hcode] at h

/-- Settles O38: the form of the frame at the end marker (`receive_civEom`). -/
theorem wholeCivFramesAcknowledgeOnAckOnly : Obligations.WholeCivFramesAcknowledgeOnAckOnly := by
  intro s x y rest before hv hempty
  refine ⟨fun hw hcap htest => ?ack, fun hw hcap => ?nak, fun hw hcap => ?other⟩
  case ack =>
    have hlen : ([0xFE, 0xFE, x, y, 0xFB] ++ rest).length = 5 + rest.length := List.length_append
    have hb := civEom_notMem_of_code (code := 0xFB) (by decide) hw
    obtain ⟨-, -, h⟩ | ⟨hform | ⟨hplace, hover⟩, -⟩ := receive_civEom hv hempty hb (hlen ▸ hcap)
    · change finish (receive s ([0xFE, 0xFE, x, y, 0xFB] ++ rest ++ [civEom])) .void = _
      rw [h, ack_eq]
      rfl
    · rw [civAcknowledges_code] at hform
      exact absurd hform (by decide)
    · rw [hlen, Nat.add_right_comm, htest hplace] at hover
      cases hover
  case nak =>
    have hlen : ([0xFE, 0xFE, x, y, 0xFA] ++ rest).length = 5 + rest.length := List.length_append
    have hb := civEom_notMem_of_code (code := 0xFA) (by decide) hw
    obtain ⟨hform, -⟩ | ⟨-, h⟩ := receive_civEom hv hempty hb (hlen ▸ hcap)
    · rw [civAcknowledges_code] at hform
      exact absurd hform (by decide)
    · change finish (receive s ([0xFE, 0xFE, x, y, 0xFA] ++ rest ++ [civEom])) .void = _
      rw [h]
      rfl
  case other =>
    obtain ⟨hb, hother⟩ : civEom ∉ before ∧ isOtherCivBody before = true := by
      simpa [Instr.wellFormed, civEom] using hw
    obtain ⟨hform, -⟩ | ⟨-, h⟩ := receive_civEom hv hempty hb hcap
    · rw [civAcknowledges_other hother] at hform
      cases hform
    · change finish (receive s (before ++ [civEom])) .void = _
      rw [h]
      rfl

end Sys2Proof.Machine
end

section
/-! SUPPORT. The emitted frames as operations of their own (R101 to R103, assumption log 3), and the port-configuration
strings (R139). -/

namespace Sys2Proof.Machine

/-- The state after the gated emission of one frame by an operation without a result. -/
theorem finish_emitIfReady (s : State) (frame : Frame) :
    finish (emitIfReady s frame) .void = .next { s with
      events := s.events ++ (if s.cat.ready then emitEvents s frame else [])
      result := .void } := by
  rw [emitIfReady_eq]
  rfl

theorem emitRow_of_mem {s : State} {vs : List Variant} (h : s.straps.variant ∈ vs) (frame : Frame) :
    emitRow s vs frame = .next { s with
      events := s.events ++ (if s.cat.ready then emitEvents s frame else [])
      result := .void } :=
  (if_pos h).trans (finish_emitIfReady s frame)

theorem emitCivRow_of_icomCiv {s : State} (h : s.straps.variant = .icomCiv) (frame : Frame) :
    emitCivRow s s.straps.civRadioAddr frame = .next { s with
      events := s.events ++ (if s.cat.ready then emitEvents s frame else [])
      result := .void } :=
  (if_neg fun hne => hne.2 rfl).trans (emitRow_of_mem (List.mem_singleton.2 h) frame)

/-- Settles O31: the frame builders of R201 to R204, R208 and R209, byte for byte. -/
theorem asciiFramesAreEmittedByteForByte : Obligations.AsciiFramesAreEmittedByteForByte := by
  refine fun s => ⟨fun hv => ?kwa, fun hv => ?elecraft⟩
  case kwa =>
    have hrow := emitRow_of_mem (s := s) (vs := [.kenwood, .elecraft]) (by simpa using hv)
    exact ⟨fun f => hrow (kwFaFrame f), fun d => hrow (kwMdFrame d), hrow kwTxFrame, hrow kwRxFrame⟩
  case elecraft =>
    have hrow := emitRow_of_mem (s := s) (vs := [.elecraft]) (List.mem_singleton.2 hv)
    refine ⟨fun w => hrow (elPcFrame w), fun a ha => ?_⟩
    have hgrammar : ¬ (s.straps.variant = .elecraft ∧ a ≠ 1 ∧ a ≠ 2) := fun h => ha.elim h.2.1 h.2.2
    exact (if_neg hgrammar).trans (hrow (elAnFrame a.val))

/-- Settles O32: the frame builders of R221 to R223, byte for byte, to the address of the strap. -/
theorem civFramesAreEmittedByteForByte : Obligations.CivFramesAreEmittedByteForByte := by
  intro s hv
  have hrow := emitCivRow_of_icomCiv hv
  exact ⟨fun f => hrow (civFreqFrame _ f), fun mm => hrow (civModeFrame _ mm), fun p => hrow (civPttFrame _ p)⟩

/-- Settles O33: the frame builders of R241 to R244, byte for byte. -/
theorem yaesuFramesAreEmittedByteForByte : Obligations.YaesuFramesAreEmittedByteForByte := by
  intro s hv
  have hrow := emitRow_of_mem (s := s) (vs := [.yaesuCat]) (List.mem_singleton.2 hv)
  exact ⟨fun q => hrow (yaeFreqFrame q), fun mm => hrow (yaeModeFrame mm), hrow (yae5Frame s.straps.yaePttOn),
    hrow (yae5Frame s.straps.yaePttOff)⟩

/-- Settles O21: the variant's port parameters written out (R95). -/
theorem portConfigurationStrings : Obligations.PortConfigurationStrings := by
  intro s
  change finish s (.text (portConfigText (portConfig s.straps.variant))) = _
  cases s.straps.variant with
  | kenwood => rfl
  | elecraft => rfl
  | icomCiv => rfl
  | yaesuCat => rfl

end Sys2Proof.Machine
end

section
/-! SUPPORT. The lifecycle and the flags (R133, R134, R140, R141), CAT.SETCH by variant (R136), CAT.SETPTT (R138). -/

namespace Sys2Proof.Machine

/-! ### Lifecycle and flags -/

theorem exec_catShutdown (s : State) :
    exec .catShutdown s = .next { s with cat := { s.cat with ready := false }, result := .void } := rfl

theorem exec_catStart (s : State) : exec .catStart s = .next { s with result := .bool s.cat.ready } := rfl

theorem exec_catIstx (s : State) : exec .catIstx s = .next { s with result := .bool s.cat.tx } := rfl

theorem exec_catIsrdy (s : State) : exec .catIsrdy s = .next { s with result := .bool s.cat.ready } := rfl

/-- CAT.SETPTT: one gated frame, and the flag in any case (D15). -/
theorem exec_catSetptt (b : Bool) (s : State) :
    exec (.catSetptt b) s = .next { s with
      events := s.events ++ (if s.cat.ready then emitEvents s (pttFrame s.straps b) else [])
      cat := { s.cat with tx := b }
      result := .void } := by
  change finish ((emitIfReady s (pttFrame s.straps b)).setTx b) .void = _
  rw [emitIfReady_eq]
  rfl

/-- Settles O17: CAT.SHUTDOWN writes a constant, so writing it again changes nothing. -/
theorem shutdownClearsReadyOnly : Obligations.ShutdownClearsReadyOnly := by
  refine ⟨exec_catShutdown, fun s t h => ?again, fun v => rfl⟩
  case again =>
    rw [exec_catShutdown] at h
    cases h
    exact exec_catShutdown _

/-- Settles O18: CAT.START reads the flag and writes the result only. -/
theorem startReturnsReady : Obligations.StartReturnsReady := ⟨exec_catStart, fun _ => rfl⟩

/-- Settles O19: the accessors read the flags, and CAT.SETPTT writes `tx` on every path (`exec_catSetptt`). -/
theorem flagAccessorsReportTheFlags : Obligations.FlagAccessorsReportTheFlags := by
  refine ⟨exec_catIstx, exec_catIsrdy, fun s => (exec_catIsrdy s).trans (exec_catStart s).symm,
    fun b s t h => ?afterSetptt, fun v => ⟨rfl, rfl⟩⟩
  case afterSetptt =>
    rw [exec_catSetptt] at h
    cases h
    exact exec_catIstx _

/-- Settles O28: the variant's frame of `exec_catSetptt`, byte for byte. -/
theorem setPttEmitsWhenReadyAndWritesTx : Obligations.SetPttEmitsWhenReadyAndWritesTx := by
  intro s b
  rw [exec_catSetptt, pttFrame]
  cases s.straps.variant with
  | kenwood => cases b <;> rfl
  | elecraft => cases b <;> rfl
  | icomCiv => rfl
  | yaesuCat => cases b <;> rfl

/-! ### CAT.SETCH -/

theorem destExists_iff (s : State) : destExists s = true ↔ s.cat.sendCb ≠ none ∨ s.straps.serialPresent = true := by
  rw [destExists, Bool.or_eq_true, Option.isSome_iff_ne_none]

theorem maySetChannel_iff (s : State) :
    maySetChannel s = true ↔ s.cat.ready = true ∧ (s.cat.sendCb ≠ none ∨ s.straps.serialPresent = true) := by
  rw [maySetChannel, Bool.and_eq_true, destExists_iff]

/-- The two frames of a CAT.SETCH that succeeds go where one would, the second after the first. -/
theorem storeChannel_eq (s : State) (c : Channel) :
    storeChannel s c = { s with
      events := s.events ++ emitEvents s (freqFrame s.straps c.rxFrequency) ++ emitEvents s (modeFrame s.straps c.rxMode)
      cat := { s.cat with chan := c, chanSet := true }
      result := .bool true } := by
  unfold storeChannel
  rw [emit_eq, emit_eq]
  rfl

/-- CAT.SETCH of a ready unit with a destination: the variant's two frames, the Channel stored, the result 1. -/
theorem exec_catSetch_of_ready {s : State} {c : Channel} (hready : s.cat.ready = true)
    (hdest : s.cat.sendCb ≠ none ∨ s.straps.serialPresent = true) (hfits : channelFits s.straps c = true) :
    exec (.catSetch c) s = .next { s with
      events := s.events ++ emitEvents s (freqFrame s.straps c.rxFrequency) ++ emitEvents s (modeFrame s.straps c.rxMode)
      cat := { s.cat with chan := c, chanSet := true }
      result := .bool true } :=
  exec_catSetch_next.2 ⟨hfits, .inl ⟨(maySetChannel_iff s).2 ⟨hready, hdest⟩, (storeChannel_eq s c).symm⟩⟩

/-- Settles O23: the frames of `exec_catSetch_of_ready` on the two ASCII variants, written out. -/
theorem kenwoodSetChannelEmitsFaThenMd : Obligations.KenwoodSetChannelEmitsFaThenMd := by
  intro s c hv hready hdest hfits
  rw [exec_catSetch_of_ready hready hdest hfits]
  obtain hv | hv := hv
  · rw [freqFrame, modeFrame, hv]
    rfl
  · rw [freqFrame, modeFrame, hv]
    rfl

/-- Settles O24: the frames of `exec_catSetch_of_ready` on IcomCiv, written out. -/
theorem icomSetChannelEmitsFreqThenMode : Obligations.IcomSetChannelEmitsFreqThenMode := by
  intro s c hv hready hdest hfits
  rw [exec_catSetch_of_ready hready hdest hfits, freqFrame, modeFrame, hv]
  rfl

/-- Settles O25: the frames of `exec_catSetch_of_ready` on YaesuCat, written out. -/
theorem yaesuSetChannelEmitsFreqThenMode : Obligations.YaesuSetChannelEmitsFreqThenMode := by
  intro s c hv hready hdest hfits
  rw [exec_catSetch_of_ready hready hdest hfits, freqFrame, modeFrame, hv]
  rfl

/-- Settles O26: each ground contradicts the guard of CAT.SETCH (`maySetChannel_iff`). -/
theorem setChannelFailsWithoutReadyOrDestination : Obligations.SetChannelFailsWithoutReadyOrDestination := by
  intro s c hfits hground
  have hmay : maySetChannel s = false := by
    rw [← Bool.not_eq_true, maySetChannel_iff]
    rintro ⟨hready, hdest⟩
    obtain hnot | ⟨hsink, hserial⟩ := hground
    · simp [hready] at hnot
    · simp [hsink, hserial] at hdest
  exact exec_catSetch_next.2 ⟨hfits, .inr ⟨hmay, rfl⟩⟩

end Sys2Proof.Machine
end

section
/-! SUPPORT. What an operation hands out: frames to the one destination, or acknowledges (R34, R130, R131, R293), and the
same operation on a unit with a sink registered. -/

namespace Sys2Proof.Machine

/-! ### The frames of an operation -/

/-- The frames an operation that goes on emits when ready, in order (R108). -/
def framesOf (p : Straps) : Instr → List Frame
  | .catSetch c => [freqFrame p c.rxFrequency, modeFrame p c.rxMode]
  | .catSetptt b => [pttFrame p b]
  | .elSetpwr watts => [elPcFrame watts]
  | .elSetant antenna => [elAnFrame antenna.toNat]
  | .kwFa f => [kwFaFrame f]
  | .kwMd code => [kwMdFrame code]
  | .kwTx => [kwTxFrame]
  | .kwRx => [kwRxFrame]
  | .elPc watts => [elPcFrame watts]
  | .elAn antenna => [elAnFrame antenna.val]
  | .civFreq rr f => [civFreqFrame rr f]
  | .civMode rr mm => [civModeFrame rr mm]
  | .civPtt rr p => [civPttFrame rr p]
  | .yaeFreq q => [yaeFreqFrame q]
  | .yaeMode mm => [yaeModeFrame mm]
  | .yaePttOn => [yae5Frame p.yaePttOn]
  | .yaePttOff => [yae5Frame p.yaePttOff]
  | _ => []

/-- The outputs of gated emissions. -/
def emissions (s : State) (frames : List Frame) : List Event :=
  if s.cat.ready then frames.flatMap (emitEvents s) else []

@[simp] theorem emissions_nil (s : State) : emissions s [] = [] := by simp [emissions]

theorem emissions_singleton (s : State) (frame : Frame) :
    emissions s [frame] = if s.cat.ready then emitEvents s frame else [] := by
  simp [emissions]

theorem emitEvents_of_no_destination {s : State} (h : destExists s = false) (frame : Frame) : emitEvents s frame = [] := by
  obtain ⟨hsink, hserial⟩ : s.cat.sendCb = none ∧ s.straps.serialPresent = false := by simpa [destExists] using h
  simp only [emitEvents, hsink, hserial]
  rfl

section
variable {s t : State}

theorem finish_events {s' : State} {r : Result} {new : List Event} (hnew : s'.events = s.events ++ new)
    (h : finish s' r = .next t) : t.events = s.events ++ new := by
  rw [finish_next.1 h]
  exact hnew

theorem finish_noEvents {r : Result} (h : finish s r = .next t) : t.events = s.events ++ [] :=
  finish_events (List.append_nil _).symm h

theorem emitIfReady_emissions (s : State) (frame : Frame) :
    (emitIfReady s frame).events = s.events ++ emissions s [frame] := by
  rw [emitIfReady_eq, emissions_singleton]

theorem emitRow_events {vs : List Variant} {frame : Frame} (h : emitRow s vs frame = .next t) :
    t.events = s.events ++ emissions s [frame] :=
  finish_events (emitIfReady_emissions s frame) (eq_next_of_guarded h).2

theorem emitCivRow_events {rr : Byte} {frame : Frame} (h : emitCivRow s rr frame = .next t) :
    t.events = s.events ++ emissions s [frame] := by
  obtain ⟨-, -, rfl⟩ := emitCivRow_next.1 h
  exact emitIfReady_emissions s frame

theorem encodeFrequency_events {f : Nat} {bytes : List Byte} (h : encodeFrequency s f bytes = .next t) :
    t.events = s.events ++ [] :=
  finish_noEvents (eq_next_of_guarded h).2

theorem decodeFrequency_events {o : Option Nat} (h : decodeFrequency s o = .next t) : t.events = s.events ++ [] := by
  obtain ⟨f, -, -, rfl⟩ := decodeFrequency_next.1 h
  exact (List.append_nil _).symm

/-- CAT.SETCH: where it fails, no frame would have gone anywhere. -/
theorem exec_catSetch_events {c : Channel} (h : exec (.catSetch c) s = .next t) :
    t.events = s.events ++ emissions s [freqFrame s.straps c.rxFrequency, modeFrame s.straps c.rxMode] := by
  obtain ⟨-, ⟨hmay, rfl⟩ | ⟨hmay, rfl⟩⟩ := exec_catSetch_next.1 h
  · have hready := ((maySetChannel_iff s).1 hmay).1
    rw [storeChannel_eq]
    simp [emissions, hready]
  · obtain hready | hdest := Bool.and_eq_false_iff.1 hmay
    · simp [emissions, hready]
    · simp [emissions, emitEvents_of_no_destination hdest]

theorem exec_catGetch_events (h : exec .catGetch s = .next t) : t.events = s.events ++ [] := by
  rw [exec_catGetch] at h
  exact finish_noEvents h

theorem execElAn_events {antenna : Fin 10} (h : execElAn antenna s = .next t) :
    t.events = s.events ++ emissions s [elAnFrame antenna.val] := by
  unfold execElAn at h
  split at h
  · cases h
  · exact emitRow_events h

/-- The outputs of an operation in which no bytes arrive: its frames when ready, and nothing else. -/
theorem exec_events_of_not_receives {i : Instr} (hi : receives i = false) (h : exec i s = .next t) :
    t.events = s.events ++ emissions s (framesOf s.straps i) := by
  have silent (ht : t.events = s.events ++ []) : t.events = s.events ++ emissions s [] := by
    rwa [emissions_nil]
  have resampler (hr : isResampler i = true) : t.events = s.events ++ [] := by
    rw [((unitsShareNoState i s t h).1 hr).2.1, List.append_nil]
  cases i with
  | catInit => exact silent (finish_noEvents (s := (rxClear s).setReady true) h)
  | catShutdown => exact silent (finish_noEvents (s := s.setReady false) h)
  | catStart => exact silent (finish_noEvents h)
  | catStop => exact silent (finish_noEvents h)
  | catSetch c => exact exec_catSetch_events h
  | catGetch => exact silent (exec_catGetch_events h)
  | catSetptt b =>
    exact finish_events (s' := (emitIfReady s (pttFrame s.straps b)).setTx b) (emitIfReady_emissions s _) h
  | catIstx => exact silent (finish_noEvents h)
  | catIsrdy => exact silent (finish_noEvents h)
  | catPortcfg => exact silent (finish_noEvents h)
  | catRegsend k => exact silent (finish_noEvents (s := s.setSendCb k) h)
  | catRegack k => exact silent (finish_noEvents (s := s.setAckCb k) h)
  | catResp bytes => cases hi
  | elSetpwr watts => exact finish_events (emitIfReady_emissions s _) (eq_next_of_guarded h).2
  | elSetant antenna =>
    exact finish_events (emitIfReady_emissions s _) (eq_next_of_guarded (eq_next_of_guarded h).2).2
  | rsConstruct r n => exact silent (resampler rfl)
  | rsDecimate input => exact silent (resampler rfl)
  | rsInterp input => exact silent (resampler rfl)
  | rsReset => exact silent (resampler rfl)
  | fqEncCiv f => exact silent (encodeFrequency_events h)
  | fqDecCiv bytes => exact silent (decodeFrequency_events h)
  | fqEncYae f => exact silent (encodeFrequency_events h)
  | fqDecYae bytes => exact silent (decodeFrequency_events h)
  | fqEncKw f => exact silent (encodeFrequency_events h)
  | fqDecKw bytes => exact silent (decodeFrequency_events h)
  | mdEncKw m => exact silent (finish_noEvents h)
  | mdDecKw d => exact silent (finish_noEvents h)
  | mdEncCiv m => exact silent (finish_noEvents h)
  | mdDecCiv code => exact silent (finish_noEvents h)
  | mdEncYae m => exact silent (finish_noEvents h)
  | mdDecYae code => exact silent (finish_noEvents h)
  | kwFa f => exact emitRow_events h
  | kwMd code => exact emitRow_events h
  | kwTx => exact emitRow_events h
  | kwRx => exact emitRow_events h
  | elPc watts => exact emitRow_events h
  | elAn antenna => exact execElAn_events h
  | civFreq rr f => exact emitCivRow_events h
  | civMode rr mm => exact emitCivRow_events h
  | civPtt rr p => exact emitCivRow_events h
  | yaeFreq q => exact emitRow_events h
  | yaeMode mm => exact emitRow_events h
  | yaePttOn => exact emitRow_events h
  | yaePttOff => exact emitRow_events h
  | kwRsp before => cases hi
  | civAck x y rest => cases hi
  | civNak x y rest => cases hi
  | civOther before => cases hi
  | yaeRsp bytes => cases hi

end

/-! ### The acknowledges of a reception -/

/-- An operation in which bytes arrive is the reception of its bytes on every state. -/
theorem exec_of_receives {i : Instr} (hi : receives i = true) :
    ∃ bytes, ∀ s, exec i s = .next ((receive s bytes).setResult .void) := by
  cases i with
  | catResp bytes => exact ⟨bytes, fun _ => rfl⟩
  | kwRsp before => exact ⟨before ++ [kwTerm], fun _ => rfl⟩
  | civAck x y rest => exact ⟨[0xFE, 0xFE, x, y, 0xFB] ++ rest ++ [civEom], fun _ => rfl⟩
  | civNak x y rest => exact ⟨[0xFE, 0xFE, x, y, 0xFA] ++ rest ++ [civEom], fun _ => rfl⟩
  | civOther before => exact ⟨before ++ [civEom], fun _ => rfl⟩
  | yaeRsp bytes => exact ⟨bytes, fun _ => rfl⟩
  | _ => cases hi

theorem receive_events (s : State) (bytes : List Byte) :
    ∃ n, (receive s bytes).events = s.events ++ (List.replicate n (ackEvents s)).flatten := by
  obtain ⟨n, buf, h⟩ := receive_receives s bytes
  exact ⟨n, by rw [h]⟩

theorem mem_replicate_flatten {α : Type} {n : Nat} {xs : List α} {x : α}
    (h : x ∈ (List.replicate n xs).flatten) : x ∈ xs := by
  obtain ⟨ys, hys, hx⟩ := List.mem_flatten.1 h
  exact List.eq_of_mem_replicate hys ▸ hx

/-! ### Where an output goes -/

/-- The output went to the destination the unit has: a frame to the registered sink, or to the bound serial transport where
no sink is registered; an acknowledge to the registered callback. -/
def wentOut (s : State) : Event → Prop
  | .txcb sink _ => s.cat.sendCb = some sink
  | .txser _ => s.cat.sendCb = none ∧ s.straps.serialPresent = true
  | .ack cb => s.cat.ackCb = some cb

/-- A frame goes to one destination at most, and causes no acknowledge. -/
theorem emitEvents_cases (s : State) (frame : Frame) :
    (∃ k, s.cat.sendCb = some k ∧ emitEvents s frame = [.txcb k frame]) ∨
    (s.cat.sendCb = none ∧ s.straps.serialPresent = true ∧ emitEvents s frame = [.txser frame]) ∨
    (s.cat.sendCb = none ∧ s.straps.serialPresent = false ∧ emitEvents s frame = []) := by
  unfold emitEvents
  cases s.cat.sendCb with
  | some k => exact .inl ⟨k, rfl, rfl⟩
  | none => cases s.straps.serialPresent <;> simp

theorem ackEvents_cases (s : State) :
    (∃ cb, s.cat.ackCb = some cb ∧ ackEvents s = [.ack cb]) ∨ (s.cat.ackCb = none ∧ ackEvents s = []) := by
  unfold ackEvents
  cases s.cat.ackCb with
  | some cb => exact .inl ⟨cb, rfl, rfl⟩
  | none => exact .inr ⟨rfl, rfl⟩

theorem wentOut_ne_ack_of_mem_emitEvents {s : State} {frame : Frame} {e : Event} (h : e ∈ emitEvents s frame) :
    wentOut s e ∧ ∀ cb, e ≠ .ack cb := by
  obtain ⟨k, hk, hout⟩ | ⟨hsink, hserial, hout⟩ | ⟨-, -, hout⟩ := emitEvents_cases s frame
  · obtain rfl : e = .txcb k frame := by simpa [hout] using h
    exact ⟨hk, nofun⟩
  · obtain rfl : e = .txser frame := by simpa [hout] using h
    exact ⟨⟨hsink, hserial⟩, nofun⟩
  · simp [hout] at h

theorem wentOut_ne_ack_of_mem_emissions {s : State} {frames : List Frame} {e : Event} (h : e ∈ emissions s frames) :
    wentOut s e ∧ ∀ cb, e ≠ .ack cb := by
  unfold emissions at h
  split at h
  · obtain ⟨frame, -, hmem⟩ := List.mem_flatMap.1 h
    exact wentOut_ne_ack_of_mem_emitEvents hmem
  · cases h

theorem eq_ack_of_mem_ackEvents {s : State} {e : Event} (h : e ∈ ackEvents s) :
    ∃ cb, s.cat.ackCb = some cb ∧ e = .ack cb := by
  obtain ⟨cb, hcb, hout⟩ | ⟨-, hout⟩ := ackEvents_cases s
  · exact ⟨cb, hcb, by simpa [hout] using h⟩
  · simp [hout] at h

/-! ### The same operation with a sink registered -/

/-- The unit with the sink `k` registered, whether a serial transport is bound or not. -/
def State.withSink (s : State) (k : Nat) (serial : Bool) : State :=
  { s with
    straps := { s.straps with serialPresent := serial }
    cat := { s.cat with sendCb := some k } }

section
variable (s : State) (k : Nat) (serial : Bool)

theorem ack_withSink : ack (s.withSink k serial) = (ack s).withSink k serial := by
  simp only [ack_eq]
  rfl

theorem guardAt_withSink (place : GuardPlace) :
    guardAt (s.withSink k serial) place = (guardAt s place).withSink k serial := by
  rw [guardAt, guardAt, rxGuard, rxGuard, apply_ite (State.withSink · k serial), apply_ite (State.withSink · k serial)]
  rfl

theorem rxTake_withSink (b : Byte) : rxTake (s.withSink k serial) b = (rxTake s b).withSink k serial :=
  guardAt_withSink (rxAppend s b) k serial .beforeTest

theorem kwRxByte_withSink (b : Byte) : kwRxByte (s.withSink k serial) b = (kwRxByte s b).withSink k serial := by
  unfold kwRxByte
  rw [rxTake_withSink, ack_withSink, guardAt_withSink, apply_ite (State.withSink · k serial)]
  rfl

theorem civRxByte_withSink (b : Byte) : civRxByte (s.withSink k serial) b = (civRxByte s b).withSink k serial := by
  unfold civRxByte
  rw [rxTake_withSink, ack_withSink, guardAt_withSink, apply_ite (State.withSink · k serial),
    apply_ite (State.withSink · k serial)]
  rfl

theorem foldl_withSink {f : State → Byte → State} (hf : ∀ s b, f (s.withSink k serial) b = (f s b).withSink k serial)
    (bytes : List Byte) : bytes.foldl f (s.withSink k serial) = (bytes.foldl f s).withSink k serial :=
  List.foldl_hom (State.withSink · k serial) hf

/-- A reception does not read the destinations of frames. -/
theorem receive_withSink (bytes : List Byte) :
    receive (s.withSink k serial) bytes = (receive s bytes).withSink k serial := by
  have hkw := foldl_withSink s k serial (kwRxByte_withSink · k serial) bytes
  have hciv := foldl_withSink s k serial (civRxByte_withSink · k serial) bytes
  have hvariant : (s.withSink k serial).straps.variant = s.straps.variant := rfl
  unfold receive
  rw [hvariant]
  cases s.straps.variant with
  | kenwood => simp only [hkw, guardAt_withSink]
  | elecraft => simp only [hkw, guardAt_withSink]
  | icomCiv => simp only [hciv, guardAt_withSink]
  | yaesuCat => simp only [ack_withSink, apply_ite (State.withSink · k serial)]

/-- What an operation may do, and its frames, do not depend on the destinations. -/
theorem admitted_withSink (i : Instr) : admitted (s.withSink k serial).straps i = admitted s.straps i := by
  cases i <;> rfl

theorem framesOf_withSink (i : Instr) : framesOf (s.withSink k serial).straps i = framesOf s.straps i := by
  cases i <;> rfl

end

/-- An operation goes on exactly where it is admitted. -/
theorem admitted_iff_exec_next (i : Instr) (s : State) : admitted s.straps i = true ↔ ∃ t, exec i s = .next t := by
  cases hi : isResampler i with
  | false =>
    obtain ⟨m, hm⟩ := exec_actsOnCat hi
    exact ⟨fun ha => ⟨_, (hm s).1 ha⟩, fun ⟨_, ht⟩ => (hm.eq_of_next ht).1⟩
  | true =>
    obtain ⟨m, hm⟩ := exec_actsOnRsmp hi
    exact ⟨fun ha => ⟨_, (hm s).1 ha⟩, fun ⟨_, ht⟩ => (hm.eq_of_next ht).1⟩

section
variable {s : State} (hsink : s.cat.sendCb = none) (hserial : s.straps.serialPresent = true) (k : Nat) (serial : Bool)
include hsink hserial

theorem emitEvents_withSink (frame : Frame) :
    emitEvents (s.withSink k serial) frame = (emitEvents s frame).map (toSink k) := by
  obtain ⟨k', hk', -⟩ | ⟨-, -, hout⟩ | ⟨-, hnot, -⟩ := emitEvents_cases s frame
  · simp [hsink] at hk'
  · rw [hout]
    rfl
  · simp [hserial] at hnot

/-- Every frame for the transport goes to the sink instead, in the same order. -/
theorem emissions_withSink (frames : List Frame) :
    emissions (s.withSink k serial) frames = (emissions s frames).map (toSink k) := by
  have hready : (s.withSink k serial).cat.ready = s.cat.ready := rfl
  have hemit := funext (emitEvents_withSink hsink hserial k serial)
  rw [emissions, emissions, hready, hemit, apply_ite (List.map (toSink k)), List.map_flatMap]
  rfl

end

theorem map_toSink_acks (s : State) (k n : Nat) :
    ((List.replicate n (ackEvents s)).flatten).map (toSink k) = (List.replicate n (ackEvents s)).flatten := by
  refine (List.map_congr_left fun e he => ?_).trans (List.map_id _)
  obtain ⟨cb, -, rfl⟩ := eq_ack_of_mem_ackEvents (mem_replicate_flatten he)
  rfl

/-- What an operation hands out: the outputs went to the unit's destination or callback, and on a unit whose frames went to
the serial transport the same operation hands the same frames to a sink registered there. -/
theorem exec_outputs {i : Instr} {s t : State} (h : exec i s = .next t) :
    ∃ new, t.events = s.events ++ new ∧ (∀ e ∈ new, wentOut s e) ∧
      (s.cat.sendCb = none → s.straps.serialPresent = true → ∀ k serial, ∃ t',
        exec i (s.withSink k serial) = .next t' ∧ t'.events = s.events ++ new.map (toSink k)) := by
  cases hi : receives i with
  | false =>
    refine ⟨_, exec_events_of_not_receives hi h, fun e he => (wentOut_ne_ack_of_mem_emissions he).1,
      fun hsink hserial k serial => ?_⟩
    obtain ⟨t', ht'⟩ := (admitted_iff_exec_next i (s.withSink k serial)).1
      ((admitted_withSink s k serial i).trans ((admitted_iff_exec_next i s).2 ⟨t, h⟩))
    refine ⟨t', ht', ?_⟩
    rw [exec_events_of_not_receives hi ht', framesOf_withSink, emissions_withSink hsink hserial]
    rfl
  | true =>
    obtain ⟨bytes, hexec⟩ := exec_of_receives hi
    obtain ⟨n, hn⟩ := receive_events s bytes
    rw [hexec] at h
    cases h
    refine ⟨_, hn, fun e he => ?_, fun _ _ k serial => ⟨_, hexec _, ?_⟩⟩
    · obtain ⟨cb, hcb, rfl⟩ := eq_ack_of_mem_ackEvents (mem_replicate_flatten he)
      exact hcb
    · rw [receive_withSink, map_toSink_acks]
      exact hn

/-! ### The obligations -/

/-- Settles O15: the three cases of an emission, and the outputs of an operation (`exec_outputs`). -/
theorem registeredSinkTakesEveryFrame : Obligations.RegisteredSinkTakesEveryFrame := by
  refine ⟨fun s frame => ⟨fun k hk => ?sink, fun hsink hserial => ?transport, fun hsink hserial => ?dropped⟩,
    fun i s t h => ?operation⟩
  case sink => rw [emit, hk]; rfl
  case transport => rw [emit, hsink, hserial]; rfl
  case dropped => rw [emit, hsink, hserial]; rfl
  case operation =>
    obtain ⟨new, hnew, hout, hsink⟩ := exec_outputs h
    refine ⟨new, hnew, fun e he => ?_, hsink⟩
    have hwent := hout e he
    cases e with
    | txcb sink frame => exact hwent
    | txser frame => exact hwent
    | ack cb => exact hwent

theorem acks_of_events_append {s t : State} {new : List Event} (h : t.events = s.events ++ new)
    (hnew : ∀ e ∈ new, ∀ cb, e ≠ .ack cb) : acks t = acks s := by
  rw [acks, h, List.countP_append]
  refine Nat.add_eq_left.2 (List.countP_eq_zero.2 fun e he => ?_)
  cases e with
  | ack cb => exact absurd rfl (hnew _ he cb)
  | txcb sink frame => exact Bool.false_ne_true
  | txser frame => exact Bool.false_ne_true

/-- Settles O16: without arriving bytes the outputs are frames (`wentOut_ne_ack_of_mem_emissions`), and an acknowledge
among the outputs went to a registered callback (`exec_outputs`). -/
theorem onlyReceptionAcknowledges : Obligations.OnlyReceptionAcknowledges := by
  refine fun i s t h => ⟨fun hi => ?silent, fun hnone => ?unregistered⟩
  case silent =>
    exact acks_of_events_append (exec_events_of_not_receives hi h) fun e he => (wentOut_ne_ack_of_mem_emissions he).2
  case unregistered =>
    obtain ⟨new, hnew, hout, -⟩ := exec_outputs h
    refine acks_of_events_append hnew fun e he cb heq => ?_
    subst heq
    have hsome : s.cat.ackCb = some cb := hout _ he
    rw [hnone] at hsome
    cases hsome

end Sys2Proof.Machine
end

section
/-! SUPPORT. Reception byte by byte (R144, R207, R226 to R229): one byte in a call of its own, how often a call
acknowledges, two calls one after the other. -/

namespace Sys2Proof.Machine

/-- The reception of one call, as an operation. -/
theorem exec_catResp (bytes : List Byte) (s : State) :
    exec (.catResp bytes) s = .next ((receive s bytes).setResult .void) := rfl

/-! ### One byte in a call of its own -/

/-- A byte that ends no frame, in a call of its own: kept unless over the cap, wherever the guard stands. -/
theorem guardAt_rxKeep (s : State) (b : Byte) :
    guardAt (guardAt (rxTake s b) .afterTest) .callEnd =
      if overCap s.straps (s.cat.rxbuf.length + 1) then s.setRxbuf [] else s.setRxbuf (s.cat.rxbuf ++ [b]) := by
  obtain ⟨-, hover, hclear⟩ | ⟨hstep, hkeep⟩ := rxKeep_cases s b
  · rw [hclear, guardAt_setRxbuf_nil, if_pos hover]
  · rw [hkeep]
    obtain ⟨-, hover, hclear⟩ | ⟨hend, hsame⟩ := guardAt_cases (s.setRxbuf (s.cat.rxbuf ++ [b])) .callEnd
    · rw [setRxbuf_straps, setRxbuf_rxbuf, List.length_append, List.length_singleton] at hover
      rw [hclear, if_pos hover]
      rfl
    · rw [setRxbuf_straps, setRxbuf_rxbuf, List.length_append, List.length_singleton] at hend
      have hunder : overCap s.straps (s.cat.rxbuf.length + 1) = false :=
        hstep.elim (fun hplace => hend.resolve_left fun hne => hne hplace) id
      rw [hsame, hunder]
      rfl

theorem receive_kw {s : State} (hv : s.straps.variant = .kenwood ∨ s.straps.variant = .elecraft) (bytes : List Byte) :
    receive s bytes = guardAt (bytes.foldl kwRxByte s) .callEnd := by
  obtain hv | hv := hv <;> simp only [receive, hv]

theorem receive_civ {s : State} (hv : s.straps.variant = .icomCiv) (bytes : List Byte) :
    receive s bytes = guardAt (bytes.foldl civRxByte s) .callEnd := by
  simp only [receive, hv]

/-- One byte on Kenwood and Elecraft. -/
theorem receive_kw_byte {s : State} (hv : s.straps.variant = .kenwood ∨ s.straps.variant = .elecraft) (b : Byte) :
    receive s [b] = if b = kwTerm then (ack s).setRxbuf []
      else if overCap s.straps (s.cat.rxbuf.length + 1) then s.setRxbuf []
      else s.setRxbuf (s.cat.rxbuf ++ [b]) := by
  split
  · next hb =>
    subst hb
    exact receive_kwTerm hv (before := []) List.not_mem_nil
  · next hb =>
    rw [receive_kw hv, List.foldl_cons, List.foldl_nil, kwRxByte, if_neg hb, guardAt_rxKeep]

/-- The form of a buffer that acknowledges, of the bytes before the end marker (R226). -/
theorem civAcknowledges_append (buf : List Byte) :
    civAcknowledges (buf ++ [civEom]) = true ↔
      5 ≤ buf.length ∧ buf[0]? = some 0xFE ∧ buf[1]? = some 0xFE ∧ buf[4]? = some 0xFB := by
  have hbefore {i : Nat} (hlen : 5 ≤ buf.length) (hi : i < 5) : (buf ++ [civEom])[i]? = buf[i]? :=
    List.getElem?_append_left (hi.trans_le hlen)
  simp only [civAcknowledges, Bool.and_eq_true, decide_eq_true_eq, List.length_append, List.length_singleton,
    Nat.succ_le_succ_iff, and_assoc]
  refine and_congr_right fun hlen => ?_
  rw [hbefore hlen (by decide), hbefore hlen (by decide), hbefore hlen (by decide)]

/-- One byte on IcomCiv. -/
theorem receive_civ_byte {s : State} (hv : s.straps.variant = .icomCiv) (b : Byte) :
    receive s [b] = if b = civEom then
        (if civAcknowledges (s.cat.rxbuf ++ [civEom]) = true ∧
            (s.straps.rxGuard.place = .beforeTest → overCap s.straps (s.cat.rxbuf.length + 1) = false) then
          (ack s).setRxbuf []
        else s.setRxbuf [])
      else if overCap s.straps (s.cat.rxbuf.length + 1) then s.setRxbuf []
      else s.setRxbuf (s.cat.rxbuf ++ [b]) := by
  rw [receive_civ hv, List.foldl_cons, List.foldl_nil]
  by_cases hb : b = civEom
  · rw [if_pos hb]
    obtain ⟨-, hform, hguard, h⟩ | ⟨-, hcut, h⟩ | ⟨hne, -⟩ | ⟨hne, -⟩ := civRxByte_cases s b
    · rw [h, guardAt_setRxbuf_nil, if_pos ⟨hform, fun hplace => hguard.resolve_left fun hne => hne hplace⟩]
    · rw [h, guardAt_setRxbuf_nil, if_neg]
      rintro ⟨hform, hguard⟩
      obtain hnot | ⟨hplace, hover⟩ := hcut
      · simp [hform] at hnot
      · simp [hguard hplace] at hover
    · exact absurd hb hne
    · exact absurd hb hne
  · rw [if_neg hb, civRxByte, if_neg hb, guardAt_rxKeep]

/-! ### How often a call acknowledges -/

/-- A reception that acknowledges `n` times. -/
def ReceivesTimes (n : Nat) (s s' : State) : Prop :=
  ∃ buf, s' = { s with
    events := s.events ++ (List.replicate n (ackEvents s)).flatten
    cat := { s.cat with rxbuf := buf } }

theorem ReceivesTimes.refl (s : State) : ReceivesTimes 0 s s := ⟨s.cat.rxbuf, by simp⟩

theorem ReceivesTimes.trans {n n' : Nat} {s s' s'' : State} (h : ReceivesTimes n s s') (h' : ReceivesTimes n' s' s'') :
    ReceivesTimes (n + n') s s'' := by
  obtain ⟨buf, rfl⟩ := h
  obtain ⟨buf', rfl⟩ := h'
  refine ⟨buf', ?_⟩
  rw [List.replicate_add, List.flatten_append, ← List.append_assoc]
  rfl

theorem setRxbuf_receivesTimes (s : State) (buf : List Byte) : ReceivesTimes 0 s (s.setRxbuf buf) :=
  ⟨buf, by simp [State.setRxbuf]⟩

theorem ack_receivesTimes (s : State) : ReceivesTimes 1 s (ack s) := ⟨s.cat.rxbuf, by simp [ack_eq]⟩

theorem guardAt_receivesTimes (s : State) (place : GuardPlace) : ReceivesTimes 0 s (guardAt s place) := by
  obtain ⟨-, -, h⟩ | ⟨-, h⟩ := guardAt_cases s place
  · rw [h]
    exact setRxbuf_receivesTimes s []
  · rw [h]
    exact .refl s

/-- The ASCII parser acknowledges at each ';' and at no other byte. -/
theorem kwRxByte_receivesTimes (s : State) (b : Byte) : ReceivesTimes (if b = kwTerm then 1 else 0) s (kwRxByte s b) := by
  obtain ⟨hb, h⟩ | ⟨hb, -, -, h⟩ | ⟨hb, -, h⟩ := kwRxByte_cases s b
  · rw [if_pos hb, h]
    exact (ack_receivesTimes s).trans (setRxbuf_receivesTimes _ [])
  · rw [if_neg hb, h]
    exact setRxbuf_receivesTimes s []
  · rw [if_neg hb, h]
    exact setRxbuf_receivesTimes s _

theorem foldl_kwRxByte_receivesTimes (bytes : List Byte) :
    ∀ s, ReceivesTimes (bytes.count kwTerm) s (bytes.foldl kwRxByte s) := by
  induction bytes with
  | nil => exact fun s => .refl s
  | cons b bs ih =>
    intro s
    have hrun := (kwRxByte_receivesTimes s b).trans (ih (kwRxByte s b))
    rw [List.count_cons, Nat.add_comm]
    simpa using hrun

theorem receive_kw_receivesTimes {s : State} (hv : s.straps.variant = .kenwood ∨ s.straps.variant = .elecraft)
    (bytes : List Byte) : ReceivesTimes (bytes.count kwTerm) s (receive s bytes) := by
  rw [receive_kw hv]
  exact (foldl_kwRxByte_receivesTimes bytes s).trans (guardAt_receivesTimes _ .callEnd)

/-! ### Two calls one after the other -/

/-- A byte step of a parser: it may acknowledge, and the buffer grows by one byte at most. -/
def BuffersByte (f : State → Byte → State) : Prop :=
  ∀ s b, ReceivesFrom s (f s b) ∧ (f s b).cat.rxbuf.length ≤ s.cat.rxbuf.length + 1

theorem kwRxByte_buffersByte : BuffersByte kwRxByte := by
  refine fun s b => ⟨kwRxByte_receives s b, ?_⟩
  obtain ⟨-, h⟩ | ⟨-, -, -, h⟩ | ⟨-, -, h⟩ := kwRxByte_cases s b <;> simp [h]

theorem civRxByte_buffersByte : BuffersByte civRxByte := by
  refine fun s b => ⟨civRxByte_receives s b, ?_⟩
  obtain ⟨-, -, -, h⟩ | ⟨-, -, h⟩ | ⟨-, -, -, h⟩ | ⟨-, -, h⟩ := civRxByte_cases s b <;> simp [h]

/-- On a variant that buffers a call is its bytes one by one and then the guard of the call's end. -/
theorem receive_of_buffers {v : Variant} (hv : v ≠ .yaesuCat) :
    ∃ f, BuffersByte f ∧
      ∀ s bytes, s.straps.variant = v → receive s bytes = guardAt (bytes.foldl f s) .callEnd := by
  cases v with
  | kenwood => exact ⟨kwRxByte, kwRxByte_buffersByte, fun _ bytes hs => receive_kw (.inl hs) bytes⟩
  | elecraft => exact ⟨kwRxByte, kwRxByte_buffersByte, fun _ bytes hs => receive_kw (.inr hs) bytes⟩
  | icomCiv => exact ⟨civRxByte, civRxByte_buffersByte, fun _ bytes hs => receive_civ hs bytes⟩
  | yaesuCat => exact absurd rfl hv

theorem ReceivesFrom.straps_eq {s s' : State} (h : ReceivesFrom s s') : s'.straps = s.straps := by
  obtain ⟨n, buf, rfl⟩ := h
  rfl

theorem overCap_mono {p : Straps} {m n : Nat} (hmn : m ≤ n) (h : overCap p n = false) : overCap p m = false :=
  (overCap_eq_false_iff p m).2 (hmn.trans_lt ((overCap_eq_false_iff p n).1 h))

section
variable {f : State → Byte → State} (hf : BuffersByte f)
include hf

theorem BuffersByte.foldl_straps (bytes : List Byte) (s : State) : (bytes.foldl f s).straps = s.straps :=
  (foldl_receives (fun s b => (hf s b).1) bytes s).straps_eq

theorem BuffersByte.foldl_length_le (bytes : List Byte) :
    ∀ s, (bytes.foldl f s).cat.rxbuf.length ≤ s.cat.rxbuf.length + bytes.length := by
  induction bytes with
  | nil => exact fun s => le_rfl
  | cons b bs ih =>
    intro s
    calc (bs.foldl f (f s b)).cat.rxbuf.length
        ≤ (f s b).cat.rxbuf.length + bs.length := ih (f s b)
      _ ≤ s.cat.rxbuf.length + 1 + bs.length := Nat.add_le_add_right (hf s b).2 _
      _ = s.cat.rxbuf.length + (b :: bs).length := by rw [List.length_cons]; omega

/-- The guard of the call's end does nothing where it stands elsewhere or the call stays under the cap. -/
theorem BuffersByte.guardAt_callEnd_foldl {bytes : List Byte} {s : State}
    (h : s.straps.rxGuard.place ≠ .callEnd ∨ overCap s.straps (s.cat.rxbuf.length + bytes.length) = false) :
    guardAt (bytes.foldl f s) .callEnd = bytes.foldl f s := by
  obtain ⟨hplace, hover, -⟩ | ⟨-, hsame⟩ := guardAt_cases (bytes.foldl f s) .callEnd
  · rw [hf.foldl_straps] at hplace hover
    rw [overCap_mono (hf.foldl_length_le bytes s) (h.resolve_left fun hne => hne hplace)] at hover
    cases hover
  · exact hsame

end

/-- Two receptions are the reception of all their bytes, where the guard of the first call's end finds nothing to do. -/
theorem receive_append {s : State} {bs : List Byte} (cs : List Byte) (hv : s.straps.variant ≠ .yaesuCat)
    (h : s.straps.rxGuard.place ≠ .callEnd ∨ overCap s.straps (s.cat.rxbuf.length + bs.length) = false) :
    receive (receive s bs) cs = receive s (bs ++ cs) := by
  obtain ⟨f, hf, hreceive⟩ := receive_of_buffers hv
  have hfirst : receive s bs = bs.foldl f s := by
    rw [hreceive s bs rfl, hf.guardAt_callEnd_foldl h]
  have hvariant : (bs.foldl f s).straps.variant = s.straps.variant := by
    rw [hf.foldl_straps]
  rw [hfirst, hreceive _ cs hvariant, hreceive s (bs ++ cs) rfl, List.foldl_append]

/-- A reception does not read what the last operation returned. -/
theorem receive_setResult (s : State) (r : Result) (bytes : List Byte) :
    receive (s.setResult r) bytes = (receive s bytes).setResult r := by
  obtain ⟨cat, outputs, h⟩ := receive_catUpdate bytes
  simp only [h]
  rfl

/-! ### The obligations -/

/-- Settles O35: one byte (`receive_kw_byte`), and the acknowledges of a call (`receive_kw_receivesTimes`). -/
theorem semicolonsAcknowledge : Obligations.SemicolonsAcknowledge := by
  refine fun s hv => ⟨fun b => ?byte, fun bytes cb hcb => ?call⟩
  case byte =>
    rw [exec_catResp, receive_kw_byte hv, ack_eq]
    simp only [apply_ite (State.setResult · .void), apply_ite Host.Outcome.next]
    rfl
  case call =>
    obtain ⟨buf, h⟩ := receive_kw_receivesTimes hv bytes
    have hevents : ackEvents s = [.ack cb] := by
      rw [ackEvents, hcb]
    refine ⟨buf, ?_⟩
    rw [exec_catResp, h, hevents, List.flatten_replicate_singleton]
    rfl

/-- Settles O36: one byte (`receive_civ_byte`), with the form of the buffer written out (`civAcknowledges_append`). -/
theorem endMarkerInspectsTheCivBuffer : Obligations.EndMarkerInspectsTheCivBuffer := by
  intro s b hv
  rw [exec_catResp, receive_civ_byte hv, ack_eq]
  simp only [civAcknowledges_append, and_assoc, apply_ite (State.setResult · .void)]
  rfl

/-- Settles O39: YaesuCat stores no byte and acknowledges once per receipt. -/
theorem yaesuReceiptAcknowledgesOnce : Obligations.YaesuReceiptAcknowledgesOnce := by
  intro s bytes hv
  have hreceive (bs : List Byte) : receive s bs = if bs = [] then s else ack s := by
    simp only [receive, hv]
  refine ⟨fun hne => ?received, ?empty⟩
  case received =>
    have hexec : exec (.catResp bytes) s = .next { s with events := s.events ++ ackEvents s, result := .void } := by
      rw [exec_catResp, hreceive, if_neg hne, ack_eq]
      rfl
    exact ⟨hexec, hexec⟩
  case empty =>
    rw [exec_catResp, hreceive, if_pos rfl]
    rfl

/-- Settles O41: the second call goes on where the first left the parser (`receive_append`). -/
theorem receptionDependsOnTheConcatenation : Obligations.ReceptionDependsOnTheConcatenation := by
  intro s t bs cs hv hguard h
  rw [exec_catResp] at h
  cases h
  rw [exec_catResp, exec_catResp, receive_setResult, receive_append cs hv hguard]
  rfl

end Sys2Proof.Machine
end

section
/-! SUPPORT. The six frequency functions (R160 to R167): what each encoder and decoder answers, the number a decimal field
stands for, the round trips, and the digits dropped above a field's width (D9). -/

namespace Sys2Proof.Machine

/-! ### The encoders -/

theorem encodeFrequency_of_lt {s : State} {f : Nat} (h : f < 2 ^ s.straps.freqW) (bytes : List Byte) :
    encodeFrequency s f bytes = .next { s with result := .bytes bytes } :=
  encodeFrequency_next.2 ⟨decide_eq_true h, rfl⟩

theorem exec_fqEncCiv {s : State} {f : Nat} (h : f < 2 ^ s.straps.freqW) :
    exec (.fqEncCiv f) s = .next { s with result := .bytes (encCiv f) } :=
  encodeFrequency_of_lt h _

theorem exec_fqEncYae {s : State} {f : Nat} (h : f < 2 ^ s.straps.freqW) :
    exec (.fqEncYae f) s = .next { s with result := .bytes (encYae f) } :=
  encodeFrequency_of_lt h _

theorem exec_fqEncKw {s : State} {f : Nat} (h : f < 2 ^ s.straps.freqW) :
    exec (.fqEncKw f) s = .next { s with result := .bytes (encKw f) } :=
  encodeFrequency_of_lt h _

/-- Settles O42: the bytes of `encCiv`, `encYae` and `encKw`, written out. -/
theorem frequencyEncodersGiveTheirDigits : Obligations.FrequencyEncodersGiveTheirDigits :=
  fun _ _ h => ⟨exec_fqEncCiv h, exec_fqEncYae h, exec_fqEncKw h, rfl, rfl, rfl⟩

/-! ### Digits above the field -/

/-- A field of `n` digits does not see the digits above it: both sides read as the same number. -/
theorem DigitCode.digitBytes_mod {base : Nat} {ok : Byte → Bool} {val : Byte → Nat} {chr : Nat → Byte}
    (h : DigitCode base ok val chr) (n f : Nat) :
    digitBytes base chr n (f % base ^ n) = digitBytes base chr n f := by
  refine h.eq_of_ofDigits_eq (fun c => h.ok_of_mem_digitBytes) (fun c => h.ok_of_mem_digitBytes)
    (by simp [digitBytes]) ?_
  rw [h.ofDigits_digitBytes, h.ofDigits_digitBytes, Nat.mod_mod]

theorem encCiv_mod (f : Nat) : encCiv (f % 10 ^ 10) = encCiv f := by
  rw [encCiv_eq, encCiv_eq]
  exact bcd_digitCode.digitBytes_mod 5 f

theorem encYaeTens_mod (q : Nat) : encYaeTens (q % 10 ^ 8) = encYaeTens q := by
  rw [encYaeTens_eq, encYaeTens_eq]
  exact congrArg List.reverse (bcd_digitCode.digitBytes_mod 4 q)

theorem asc_mod (v w : Nat) : asc (v % 10 ^ w) w = asc v w := by
  rw [asc_eq, asc_eq, asc_digitCode.digitBytes_mod]

/-- The Yaesu encoder sees the tens of hertz only (R162). -/
theorem encYae_mul_ten (q : Nat) : encYae (q * 10) = encYaeTens q := by
  rw [encYae, Nat.mul_div_cancel _ (by decide)]

/-- Settles O45: a field's bytes are those of the remainder (`DigitCode.digitBytes_mod`). -/
theorem outOfRangeFrequenciesWrap : Obligations.OutOfRangeFrequenciesWrap := by
  refine fun f => ⟨(encCiv_mod f).symm, ?yaesu, (asc_mod f 11).symm, rfl, rfl, rfl⟩
  case yaesu => rw [encYae_mul_ten, encYaeTens_mod, encYae]

/-! ### The decoders -/

theorem exec_fqDecCiv (bs : List Byte) (s : State) : exec (.fqDecCiv bs) s = decodeFrequency s (decCiv bs) := rfl

theorem exec_fqDecYae (bs : List Byte) (s : State) : exec (.fqDecYae bs) s = decodeFrequency s (decYae bs) := rfl

theorem exec_fqDecKw (cs : List Byte) (s : State) : exec (.fqDecKw cs) s = decodeFrequency s (decKw cs) := rfl

theorem decodeFrequency_none (s : State) : decodeFrequency s none = .refused .notDecimal := rfl

/-- A unit of 37 frequency bits holds every number of eleven digits. -/
theorem decodeFrequency_of_lt {s : State} (hw : 37 ≤ s.straps.freqW) {f : Nat} (hf : f < 10 ^ 11) :
    decodeFrequency s (some f) = .next { s with result := .frequency f } := by
  have hfits : f < 2 ^ s.straps.freqW :=
    calc f < 10 ^ 11 := hf
      _ ≤ 2 ^ 37 := by decide
      _ ≤ 2 ^ s.straps.freqW := Nat.pow_le_pow_right (by decide) hw
  exact decodeFrequency_next.2 ⟨f, rfl, decide_eq_true hfits, rfl⟩

/-- Yaesu bytes decode to `f` exactly when they are its encoding, and `f` is a whole number of tens of hertz (R162, R163). -/
theorem decYae_eq_some_iff {bs : List Byte} {f : Nat} : decYae bs = some f ↔ f < 10 ^ 9 ∧ 10 ∣ f ∧ bs = encYae f := by
  rw [decYae, Option.map_eq_some_iff]
  constructor
  · rintro ⟨q, hq, rfl⟩
    obtain ⟨hlt, rfl⟩ := decYaeTens_eq_some_iff.1 hq
    exact ⟨by omega, Nat.dvd_mul_left 10 q, (encYae_mul_ten q).symm⟩
  · rintro ⟨hlt, hdvd, rfl⟩
    exact ⟨f / 10, decYaeTens_eq_some_iff.2 ⟨by omega, rfl⟩, Nat.div_mul_cancel hdvd⟩

section
variable {s : State} (hw : 37 ≤ s.straps.freqW) {bs : List Byte} {f : Nat}
include hw

theorem exec_fqDecCiv_of_some (h : decCiv bs = some f) :
    exec (.fqDecCiv bs) s = .next { s with result := .frequency f } := by
  have hlt := (decCiv_eq_some_iff.1 h).1
  rw [exec_fqDecCiv, h, decodeFrequency_of_lt hw (by omega)]

theorem exec_fqDecYae_of_some (h : decYae bs = some f) :
    exec (.fqDecYae bs) s = .next { s with result := .frequency f } := by
  have hlt := (decYae_eq_some_iff.1 h).1
  rw [exec_fqDecYae, h, decodeFrequency_of_lt hw (by omega)]

theorem exec_fqDecKw_of_some (h : decKw bs = some f) :
    exec (.fqDecKw bs) s = .next { s with result := .frequency f } := by
  have hlt := (decAsc_eq_some_iff.1 h).1
  rw [exec_fqDecKw, h, decodeFrequency_of_lt hw hlt]

end

/-- Settles O44: both directions of `decCiv_eq_some_iff`, `decYae_eq_some_iff` and `decAsc_eq_some_iff`. -/
theorem frequencyRoundTrips : Obligations.FrequencyRoundTrips := by
  refine fun s hw => ⟨fun f hf => ?civ, fun f hf => ?kw, fun f hf => ?yaesu, fun bs f h => ?encCiv, fun bs f h => ?encYae,
    fun bs f h => ?encKw⟩
  case civ => exact exec_fqDecCiv_of_some hw (decCiv_eq_some_iff.2 ⟨by omega, rfl⟩)
  case kw => exact exec_fqDecKw_of_some hw (decAsc_eq_some_iff.2 ⟨by omega, rfl⟩)
  case yaesu =>
    have htens : f / 10 = (f - f % 10) / 10 := by omega
    have hbytes : encYae f = encYae (f - f % 10) := by rw [encYae, htens, encYae]
    exact exec_fqDecYae_of_some hw (decYae_eq_some_iff.2 ⟨by omega, by omega, hbytes⟩)
  case encCiv => exact (decCiv_eq_some_iff.1 h).2.symm
  case encYae =>
    obtain ⟨-, -, hbs⟩ := decYae_eq_some_iff.1 h
    exact hbs.symm
  case encKw => exact (decAsc_eq_some_iff.1 h).2.symm

/-! ### Weighted sums -/

/-- Reading most significant first, digit after digit, is the weighted sum of the digits. -/
theorem foldl_eq_weightedSum (base : Nat) (val : Byte → Nat) (cs : List Byte) : ∀ a,
    cs.foldl (fun f c => f * base + val c) a = a * base ^ cs.length +
      ((List.range cs.length).map fun k => val (cs.getD k 0) * base ^ (cs.length - 1 - k)).sum := by
  induction cs with
  | nil => simp
  | cons c cs ih =>
    intro a
    have hweight (k : Nat) : cs.length - 1 - k = cs.length - (k + 1) := by omega
    rw [List.foldl_cons, ih, List.length_cons, List.range_succ_eq_map]
    simp only [List.map_cons, List.map_map, Function.comp_def, List.sum_cons, List.getD_cons_zero, List.getD_cons_succ,
      Nat.add_sub_cancel, Nat.sub_zero, hweight]
    ring

theorem ascFieldValue_eq_weightedSum (cs : List Byte) :
    ascFieldValue cs =
      ((List.range cs.length).map fun k => ascValue (cs.getD k 0) * 10 ^ (cs.length - 1 - k)).sum := by
  rw [ascFieldValue, foldl_eq_weightedSum, Nat.zero_mul, Nat.zero_add]

/-- Settles O43: a field of digits has a value and `foldl_eq_weightedSum` gives it; any other bytes have none. -/
theorem frequencyDecodersSumTheirDigits : Obligations.FrequencyDecodersSumTheirDigits := by
  refine fun s hw => ⟨fun b0 b1 b2 b3 b4 h => ?civ, fun p1 p2 p3 p4 h => ?yaesu, fun cs hlen h => ?kw, fun bs h => ?notCiv,
    fun bs h => ?notYaesu, fun cs h => ?notKw⟩
  case civ =>
    have hsum : bcdLsbValue [b0, b1, b2, b3, b4] = bcdValue b0 + bcdValue b1 * 100 + bcdValue b2 * 100 ^ 2 +
        bcdValue b3 * 100 ^ 3 + bcdValue b4 * 100 ^ 4 := by
      simp only [bcdLsbValue]
      ring
    rw [← hsum]
    exact exec_fqDecCiv_of_some hw (if_pos ⟨rfl, h⟩)
  case yaesu =>
    have hsum : bcdMsbValue [p1, p2, p3, p4] =
        ((bcdValue p1 * 100 + bcdValue p2) * 100 + bcdValue p3) * 100 + bcdValue p4 := by
      simp [bcdMsbValue]
    rw [← hsum]
    have hdec : decYaeTens [p1, p2, p3, p4] = some (bcdMsbValue [p1, p2, p3, p4]) := if_pos ⟨rfl, h⟩
    exact exec_fqDecYae_of_some hw (by rw [decYae, hdec, Option.map_some])
  case kw =>
    have hsum := ascFieldValue_eq_weightedSum cs
    rw [hlen] at hsum
    exact exec_fqDecKw_of_some hw ((if_pos ⟨hlen, h⟩).trans (congrArg some hsum))
  case notCiv => rw [exec_fqDecCiv, decCiv, if_neg h, decodeFrequency_none]
  case notYaesu => rw [exec_fqDecYae, decYae, decYaeTens, if_neg h, Option.map_none, decodeFrequency_none]
  case notKw => rw [exec_fqDecKw, decKw, decAsc, if_neg h, decodeFrequency_none]

end Sys2Proof.Machine
end

section
/-! SUPPORT. The mode maps (R180 to R187): how the look-ups answer, and what an admitted pair of tables obeys, taken apart
from the check once with a name for each constraint. -/

namespace Sys2Proof.Machine

/-! ### The look-ups -/

section
variable {α : Type}

@[simp] theorem encodeMode_usb (t : ModeCodes α) : encodeMode t .usb = t.usb := if_pos rfl

theorem isMapped_eq_false_iff (t : ModeCodes α) (m : RadioMode) :
    isMapped t m = false ↔ m ≠ .usb ∧ t.entries.lookup m = none := by
  simp [isMapped]

/-- R180: a mode without an entry takes the code of USB. -/
theorem encodeMode_of_not_isMapped {t : ModeCodes α} {m : RadioMode} (h : isMapped t m = false) :
    encodeMode t m = encodeMode t .usb := by
  obtain ⟨hne, hnone⟩ := (isMapped_eq_false_iff t m).1 h
  rw [encodeMode_usb, encodeMode, if_neg hne, hnone, Option.getD_none]

variable [DecidableEq α]

/-- R180: a code without an entry is USB. -/
theorem decodeMode_of_lookup_eq_none {t : List (α × RadioMode)} {code : α} (h : t.lookup code = none) :
    decodeMode t code = .usb := by
  rw [decodeMode, h, Option.getD_none]

/-- What a code decodes to stands beside it in the table, or is USB. -/
theorem mem_or_decodeMode_eq_usb (t : List (α × RadioMode)) (code : α) :
    (code, decodeMode t code) ∈ t ∨ decodeMode t code = .usb := by
  cases hlookup : t.lookup code with
  | none => exact .inr (decodeMode_of_lookup_eq_none hlookup)
  | some m =>
    obtain ⟨before, after, rfl, -⟩ := List.lookup_eq_some_iff.1 hlookup
    have hdec : decodeMode (before ++ (code, m) :: after) code = m := by
      rw [decodeMode, hlookup, Option.getD_some]
    rw [hdec]
    exact .inl (List.mem_append_right _ List.mem_cons_self)

/-- Modes that come back as themselves have distinct codes. -/
theorem nodup_map_encodeMode {enc : ModeCodes α} {rev : List (α × RadioMode)} {ms : List RadioMode} (hms : ms.Nodup)
    (h : ∀ m ∈ ms, roundTrip enc rev m = m) : (ms.map (encodeMode enc)).Nodup := by
  refine hms.map_on fun a ha b hb hcode => ?_
  calc a = roundTrip enc rev a := (h a ha).symm
    _ = roundTrip enc rev b := by rw [roundTrip, hcode, roundTrip]
    _ = b := h b hb

theorem returnsLawfully_iff {enc : ModeCodes α} {rev : List (α × RadioMode)} {collapses : List (RadioMode × RadioMode)}
    {m : RadioMode} :
    returnsLawfully enc rev collapses m = true ↔
      roundTrip enc rev m = m ∨ (m, roundTrip enc rev m) ∈ collapses ∨
        (isMapped enc m = false ∧ roundTrip enc rev m = .usb) := by
  simp [returnsLawfully, or_assoc]

end

theorem mem_allModes (m : RadioMode) : m ∈ allModes := by cases m <;> decide

/-! ### What admitted tables obey -/

/-- The constraints on the Kenwood tables, one by one (R180 to R182). -/
structure KwTablesObey (p : Straps) : Prop where
  usb : encodeMode p.kwModeCode .usb = 2
  rtty : encodeMode p.kwModeCode .rtty = encodeMode p.kwModeCode .fsk
  dataUsb : encodeMode p.kwModeCode .dataUsb = encodeMode p.kwModeCode .usb
  dataLsb : encodeMode p.kwModeCode .dataLsb = encodeMode p.kwModeCode .lsb
  backFsk : roundTrip p.kwModeCode p.kwModeRev .fsk = .fsk
  backUsb : roundTrip p.kwModeCode p.kwModeRev .usb = .usb
  backLsb : roundTrip p.kwModeCode p.kwModeRev .lsb = .lsb
  oneWay : ∀ e ∈ p.kwModeRev, e.2 ≠ .rtty ∧ e.2 ≠ .dataUsb ∧ e.2 ≠ .dataLsb
  returns : ∀ m, returnsLawfully p.kwModeCode p.kwModeRev [(.rtty, .fsk), (.dataUsb, .usb), (.dataLsb, .lsb)] m = true

/-- The modes that the Icom tables give back as themselves: the five direct ones, RTTY and FSK_R (R183, R184). -/
def civDirect : List RadioMode := [.lsb, .usb, .am, .cw, .fm, .rtty, .fskR]

/-- The constraints on the Icom tables, one by one (R180, R183, R184). -/
structure CivTablesObey (p : Straps) : Prop where
  usb : encodeMode p.civModeCode .usb = 0x01
  rtty : encodeMode p.civModeCode .rtty = encodeMode p.civModeCode .fsk
  dataLsb : encodeMode p.civModeCode .dataLsb = encodeMode p.civModeCode .lsb
  dataUsb : encodeMode p.civModeCode .dataUsb = encodeMode p.civModeCode .usb
  unmapped : ∀ m ∈ ([.fmw, .cwR, .tune, .dig, .unknown] : List RadioMode), isMapped p.civModeCode m = false
  back : ∀ m ∈ civDirect, roundTrip p.civModeCode p.civModeRev m = m
  entries : ∀ e ∈ p.civModeRev, e.1 ∈ civDirect.map (encodeMode p.civModeCode) ∨ e.2 = .usb
  returns : ∀ m, returnsLawfully p.civModeCode p.civModeRev [(.fsk, .rtty), (.dataLsb, .lsb), (.dataUsb, .usb)] m = true

/-- The modes on the digital code of the Yaesu table (R185). -/
def yaeDigital : List RadioMode := [.dig, .fsk, .rtty, .dataUsb, .dataLsb]

/-- The constraints on the Yaesu tables, one by one (R180, R185, R186). -/
structure YaeTablesObey (p : Straps) : Prop where
  digital : ∀ m ∈ yaeDigital, encodeMode p.yaeModeCode m = encodeMode p.yaeModeCode .dig
  returns : ∀ m, returnsLawfully p.yaeModeCode p.yaeModeRev
    (yaeDigital.map fun d => (d, roundTrip p.yaeModeCode p.yaeModeRev .dig)) m = true

section
variable {p : Straps}

theorem kwTablesObey_of_legal (h : kwTablesLegal p = true) : KwTablesObey p := by
  simp only [kwTablesLegal, Bool.and_eq_true, decide_eq_true_eq, List.all_eq_true] at h
  obtain ⟨⟨⟨⟨⟨⟨⟨⟨husb, hrtty⟩, hdataUsb⟩, hdataLsb⟩, hbackFsk⟩, hbackUsb⟩, hbackLsb⟩, honeWay⟩, hreturns⟩ := h
  exact ⟨husb, hrtty, hdataUsb, hdataLsb, hbackFsk, hbackUsb, hbackLsb, fun e he => and_assoc.1 (honeWay e he),
    fun m => hreturns m (mem_allModes m)⟩

theorem civTablesObey_of_legal (h : civTablesLegal p = true) : CivTablesObey p := by
  simp only [civTablesLegal, Bool.and_eq_true, Bool.or_eq_true, Bool.not_eq_true', decide_eq_true_eq, List.all_eq_true,
    List.contains_iff_mem] at h
  obtain ⟨⟨⟨⟨⟨⟨⟨⟨husb, -⟩, hrtty⟩, hdataLsb⟩, hdataUsb⟩, hunmapped⟩, hback⟩, hentries⟩, hreturns⟩ := h
  exact ⟨husb, hrtty, hdataLsb, hdataUsb, hunmapped, hback, hentries, fun m => hreturns m (mem_allModes m)⟩

theorem yaeTablesObey_of_legal (h : yaeTablesLegal p = true) : YaeTablesObey p := by
  simp only [yaeTablesLegal, Bool.and_eq_true, decide_eq_true_eq, List.all_eq_true] at h
  obtain ⟨⟨⟨⟨hfsk, hrtty⟩, hdataUsb⟩, hdataLsb⟩, hreturns⟩ := h
  exact ⟨by simp [yaeDigital, hfsk, hrtty, hdataUsb, hdataLsb], fun m => hreturns m (mem_allModes m)⟩

theorem tablesObey_of_strapsLegal (h : strapsLegal p = true) : KwTablesObey p ∧ CivTablesObey p ∧ YaeTablesObey p := by
  simp only [strapsLegal, Bool.and_eq_true] at h
  obtain ⟨⟨⟨⟨hkw, hciv⟩, hyae⟩, -⟩, -⟩ := h
  exact ⟨kwTablesObey_of_legal hkw, civTablesObey_of_legal hciv, yaeTablesObey_of_legal hyae⟩

/-- K3 and K5 are one way: no code comes back as RTTY, DATA_USB or DATA_LSB. -/
theorem KwTablesObey.decodeMode_ne (h : KwTablesObey p) (d : Fin 10) :
    decodeMode p.kwModeRev d ≠ .rtty ∧ decodeMode p.kwModeRev d ≠ .dataUsb ∧ decodeMode p.kwModeRev d ≠ .dataLsb := by
  obtain hmem | husb := mem_or_decodeMode_eq_usb p.kwModeRev d
  · exact h.oneWay _ hmem
  · rw [husb]
    decide

/-- I2 to I4: the seven codes of the modes that come back are distinct. -/
theorem CivTablesObey.nodup (h : CivTablesObey p) : (civDirect.map (encodeMode p.civModeCode)).Nodup :=
  nodup_map_encodeMode (by decide) h.back

/-- R183: the five modes without an entry take the code 01 of USB. -/
theorem CivTablesObey.encodeMode_unmapped (h : CivTablesObey p) {m : RadioMode}
    (hm : m ∈ ([.fmw, .cwR, .tune, .dig, .unknown] : List RadioMode)) : encodeMode p.civModeCode m = 0x01 :=
  (encodeMode_of_not_isMapped (h.unmapped m hm)).trans h.usb

/-- I3, I7: FSK shares its code with RTTY, which comes back. -/
theorem CivTablesObey.roundTrip_fsk (h : CivTablesObey p) : roundTrip p.civModeCode p.civModeRev .fsk = .rtty := by
  rw [roundTrip, ← h.rtty]
  exact h.back .rtty (by decide)

/-- I10: a byte that is none of the seven codes is USB. -/
theorem CivTablesObey.decodeMode_of_notMem (h : CivTablesObey p) {code : Byte}
    (hcode : code ∉ civDirect.map (encodeMode p.civModeCode)) : decodeMode p.civModeRev code = .usb := by
  obtain hmem | husb := mem_or_decodeMode_eq_usb p.civModeRev code
  · exact (h.entries _ hmem).resolve_left hcode
  · exact husb

/-- R186: a mode comes back as itself, with the modes on the digital code as one, or, unmapped, as USB. -/
theorem YaeTablesObey.roundTrip_cases (h : YaeTablesObey p) (m : RadioMode) :
    roundTrip p.yaeModeCode p.yaeModeRev m = m ∨
      (m ∈ yaeDigital ∧ roundTrip p.yaeModeCode p.yaeModeRev m = roundTrip p.yaeModeCode p.yaeModeRev .dig) ∨
      (isMapped p.yaeModeCode m = false ∧ roundTrip p.yaeModeCode p.yaeModeRev m = .usb) := by
  obtain hsame | hcollapse | hunmapped := returnsLawfully_iff.1 (h.returns m)
  · exact .inl hsame
  · obtain ⟨d, hd, heq⟩ := List.mem_map.1 hcollapse
    obtain ⟨rfl, hback⟩ := Prod.mk.inj heq
    exact .inr (.inl ⟨hd, hback.symm⟩)
  · exact .inr (.inr hunmapped)

end

/-! ### The six operations -/

theorem exec_mdEncKw (m : RadioMode) (s : State) :
    exec (.mdEncKw m) s = .next { s with result := .digit (encodeMode s.straps.kwModeCode m) } := rfl

theorem exec_mdDecKw (d : Fin 10) (s : State) :
    exec (.mdDecKw d) s = .next { s with result := .mode (decodeMode s.straps.kwModeRev d) } := rfl

theorem exec_mdEncCiv (m : RadioMode) (s : State) :
    exec (.mdEncCiv m) s = .next { s with result := .code (encodeMode s.straps.civModeCode m) } := rfl

theorem exec_mdDecCiv (code : Byte) (s : State) :
    exec (.mdDecCiv code) s = .next { s with result := .mode (decodeMode s.straps.civModeRev code) } := rfl

theorem exec_mdEncYae (m : RadioMode) (s : State) :
    exec (.mdEncYae m) s = .next { s with result := .code (encodeMode s.straps.yaeModeCode m) } := rfl

theorem exec_mdDecYae (code : Byte) (s : State) :
    exec (.mdDecYae code) s = .next { s with result := .mode (decodeMode s.straps.yaeModeRev code) } := rfl

/-! ### The obligations -/

/-- Settles O46: the encoders are the look-ups of the tables; the seven Icom codes are distinct because their modes come
back (`CivTablesObey.nodup`). -/
theorem modeEncodersObeyTheTables : Obligations.ModeEncodersObeyTheTables := by
  intro s hs
  obtain ⟨kw, civ, yae⟩ := tablesObey_of_strapsLegal hs
  refine ⟨⟨encodeMode s.straps.kwModeCode, fun m => exec_mdEncKw m s, ?kw⟩,
    ⟨encodeMode s.straps.civModeCode, fun m => exec_mdEncCiv m s, ?civ⟩,
    ⟨encodeMode s.straps.yaeModeCode, fun m => exec_mdEncYae m s, ?yae⟩⟩
  case kw => exact ⟨kw.usb, kw.rtty, kw.dataUsb, kw.dataLsb, fun _ => encodeMode_of_not_isMapped⟩
  case civ =>
    exact ⟨civ.usb, civ.nodup, civ.rtty, civ.dataLsb, civ.dataUsb, civ.encodeMode_unmapped (by decide),
      civ.encodeMode_unmapped (by decide), civ.encodeMode_unmapped (by decide), civ.encodeMode_unmapped (by decide),
      civ.encodeMode_unmapped (by decide), fun _ => encodeMode_of_not_isMapped⟩
  case yae =>
    exact ⟨yae.digital .fsk (by decide), yae.digital .rtty (by decide), yae.digital .dataUsb (by decide),
      yae.digital .dataLsb (by decide), fun _ => encodeMode_of_not_isMapped⟩

/-- Settles O47: the decoders are the look-ups of the tables, and a decode of an encode is `roundTrip`. -/
theorem modeDecodersUndoTheEncoders : Obligations.ModeDecodersUndoTheEncoders := by
  intro s hs
  obtain ⟨kw, civ, yae⟩ := tablesObey_of_strapsLegal hs
  refine ⟨⟨decodeMode s.straps.kwModeRev, fun d => exec_mdDecKw d s, ?kw⟩,
    ⟨decodeMode s.straps.civModeRev, fun code => exec_mdDecCiv code s, ?civ⟩,
    ⟨decodeMode s.straps.yaeModeRev, fun code => exec_mdDecYae code s, ?yae⟩⟩
  case kw =>
    exact ⟨kw.backFsk, kw.backUsb, kw.backLsb, kw.decodeMode_ne, fun _ => decodeMode_of_lookup_eq_none,
      fun m => returnsLawfully_iff.1 (kw.returns m)⟩
  case civ =>
    exact ⟨civ.back, civ.roundTrip_fsk, fun _ => civ.decodeMode_of_notMem, fun m => returnsLawfully_iff.1 (civ.returns m)⟩
  case yae => exact ⟨fun _ => decodeMode_of_lookup_eq_none, yae.roundTrip_cases⟩

/-- Settles O48: each column of R187 is one evaluation of the fifteen round trips. -/
theorem defaultTablesRoundTrip : Obligations.DefaultTablesRoundTrip := by
  refine ⟨?kw, ?civ, ?yae⟩
  case kw => decide
  case civ => decide
  case yae => decide

end Sys2Proof.Machine
end

section
/-! SUPPORT. The two Elecraft operations on their own variant (R208, R209). -/

namespace Sys2Proof.Machine

/-- The digit of an operand byte, as EL.SETANT sends it, is that byte above '0'. -/
theorem ascDigit_toNat (a : Byte) : ascDigit a.toNat = 0x30 + a := by
  rw [ascDigit, byte, BitVec.ofNat_toNat, BitVec.setWidth_eq]
  rfl

/-- EL.SETPWR passes the variant's test and emits one gated frame. -/
theorem exec_elSetpwr {s : State} (hv : s.straps.variant = .elecraft) (w : Nat) :
    exec (.elSetpwr w) s = .next { s with
      events := s.events ++ (if s.cat.ready then emitEvents s (elPcFrame w) else [])
      result := .void } :=
  (if_pos hv).trans (finish_emitIfReady s (elPcFrame w))

/-- EL.SETANT passes the tests of the variant and of the antenna and emits one gated frame. -/
theorem exec_elSetant {s : State} (hv : s.straps.variant = .elecraft) {a : Byte} (ha : a = 1 ∨ a = 2) :
    exec (.elSetant a) s = .next { s with
      events := s.events ++ (if s.cat.ready then emitEvents s (elAnFrame a.toNat) else [])
      result := .void } :=
  calc exec (.elSetant a) s
    _ = if a = 1 ∨ a = 2 then finish (emitIfReady s (elAnFrame a.toNat)) .void else .refused .antennaOutsideGrammar :=
      if_pos hv
    _ = finish (emitIfReady s (elAnFrame a.toNat)) .void := if_pos ha
    _ = _ := finish_emitIfReady s (elAnFrame a.toNat)

/-- EL.AN byte for byte, the antenna as an operand byte. -/
theorem elAnFrame_toNat (a : Byte) : elAnFrame a.toNat = [0x41, 0x4E, 0x30 + a, 0x3B] := by
  rw [elAnFrame, ascDigit_toNat]
  rfl

/-- Settles O29: the frames of `exec_elSetpwr` and `exec_elSetant`, byte for byte. -/
theorem elecraftCommandsEmitTheirFrame : Obligations.ElecraftCommandsEmitTheirFrame := by
  refine fun s hv => ⟨fun w => exec_elSetpwr hv w, fun a ha => ?setant⟩
  case setant => rw [exec_elSetant hv ha, elAnFrame_toNat]

end Sys2Proof.Machine
end

section
/-! SUPPORT. The resampler's filter over any arithmetic (R261 to R264): the history read oldest first and what pushes do
to it, the filter as an inner product, and the outputs of both operations as filter values between the pushes. -/

namespace Sys2Proof.Machine

section
variable {α : Type}

/-! ### Pushes -/

/-- What one push leaves alone, any number of pushes leaves alone. -/
theorem foldl_firPush_keeps {β : Type} {f : FirState α → β} (hf : ∀ u v, f (firPush u v) = f u) (vs : List α)
    (u : FirState α) : f (vs.foldl firPush u) = f u :=
  List.foldlRecOn (motive := fun w => f w = f u) vs firPush rfl fun w hw v _ => (hf w v).trans hw

@[simp] theorem foldl_firPush_r (vs : List α) (u : FirState α) : (vs.foldl firPush u).r = u.r :=
  foldl_firPush_keeps (f := FirState.r) (fun _ _ => rfl) vs u

@[simp] theorem foldl_firPush_coeff (vs : List α) (u : FirState α) : (vs.foldl firPush u).coeff = u.coeff :=
  foldl_firPush_keeps (f := FirState.coeff) (fun _ _ => rfl) vs u

theorem foldl_firPush_storage {u : FirState α} (h : storageLegal u) (vs : List α) :
    storageLegal (vs.foldl firPush u) :=
  List.foldlRecOn (motive := storageLegal) vs firPush h fun _ hw v _ => firPush_storage hw v

/-- R61: the position moves on by the number of pushes, modulo `N`. -/
theorem foldl_firPush_pos {u : FirState α} (h : u.pos < totalTaps u) (vs : List α) :
    (vs.foldl firPush u).pos = (u.pos + vs.length) % totalTaps u := by
  induction vs generalizing u with
  | nil => simp [Nat.mod_eq_of_lt h]
  | cons v vs ih =>
    rw [List.foldl_cons, ih (Nat.mod_lt _ (Nat.zero_lt_of_lt h))]
    simp [Nat.add_assoc, Nat.add_comm 1]

/-- The history from the position on: the oldest value first, as the filter reads it (D6). -/
def oldestFirst (u : FirState α) : List α := u.hist.rotate u.pos

theorem oldestFirst_length {u : FirState α} (h : storageLegal u) : (oldestFirst u).length = totalTaps u := by
  obtain ⟨-, -, -, -, hhist, -⟩ := h
  simpa [oldestFirst] using hhist

theorem mem_oldestFirst {u : FirState α} {x : α} : x ∈ oldestFirst u ↔ x ∈ u.hist := List.mem_rotate

/-- A push drops the oldest value and appends the new one. -/
theorem oldestFirst_firPush {u : FirState α} (h : storageLegal u) (v : α) :
    oldestFirst (firPush u v) = (oldestFirst u).drop 1 ++ [v] := by
  obtain ⟨-, -, -, -, hhist, hpos⟩ := h
  have hlt : u.pos < u.hist.length := hhist ▸ hpos
  have hset : (u.hist.set u.pos v).rotate u.pos = v :: (u.hist.drop (u.pos + 1) ++ u.hist.take u.pos) := by
    rw [List.rotate_eq_drop_append_take (by simpa using hlt.le), List.take_set_of_le le_rfl,
      List.drop_eq_getElem_cons (by simpa using hlt), List.drop_set_of_lt (Nat.lt_succ_self _), List.getElem_set_self,
      List.cons_append]
  have hold : (oldestFirst u).drop 1 = u.hist.drop (u.pos + 1) ++ u.hist.take u.pos := by
    rw [oldestFirst, List.rotate_eq_drop_append_take hlt.le, List.drop_eq_getElem_cons hlt]
    rfl
  calc oldestFirst (firPush u v)
    _ = (u.hist.set u.pos v).rotate (u.pos + 1) := by
      rw [oldestFirst, firPush_hist, firPush_pos, ← hhist, ← List.length_set (as := u.hist), List.rotate_mod]
    _ = ((u.hist.set u.pos v).rotate u.pos).rotate 1 := (List.rotate_rotate _ _ _).symm
    _ = (oldestFirst u).drop 1 ++ [v] := by
      rw [hset, hold, List.rotate_cons_succ, List.rotate_zero]

/-- Pushes drop as many of the oldest values as they append. -/
theorem oldestFirst_foldl_firPush {u : FirState α} (h : storageLegal u) (vs : List α) :
    oldestFirst (vs.foldl firPush u) = (oldestFirst u ++ vs).drop vs.length := by
  induction vs generalizing u with
  | nil => simp
  | cons v vs ih =>
    have hone : 1 ≤ (oldestFirst u).length := by
      have ⟨_, _, hn, _⟩ := h
      rw [oldestFirst_length h]
      exact Nat.le_of_succ_le hn
    calc oldestFirst ((v :: vs).foldl firPush u)
      _ = ((oldestFirst u).drop 1 ++ [v] ++ vs).drop vs.length := by
        rw [List.foldl_cons, ih (firPush_storage h v), oldestFirst_firPush h]
      _ = ((oldestFirst u ++ v :: vs).drop 1).drop vs.length := by
        rw [List.drop_append_of_le_length hone, List.append_assoc, List.singleton_append]
      _ = (oldestFirst u ++ v :: vs).drop (v :: vs).length := by
        rw [List.drop_drop, Nat.add_comm, List.length_cons]

/-! ### The filter -/

theorem fir_eq_foldl_map (A : Arith α) (u : FirState α) :
    fir A u = ((List.range (totalTaps u)).map (firTerm A u)).foldl A.add A.zero :=
  List.foldl_map.symm

/-- R262: the filter's value is the inner product of the coefficients with the history, oldest first. -/
theorem fir_eq_innerProduct (A : Arith α) {u : FirState α} (h : storageLegal u) :
    fir A u = (List.zipWith A.mul u.coeff (oldestFirst u)).foldl A.add A.zero := by
  have ⟨_, _, _, hcoeff, hhist, _⟩ := h
  have hlen := oldestFirst_length h
  rw [fir_eq_foldl_map]
  congr 1
  refine List.ext_getElem (by simp [hcoeff, hlen]) fun k hk _ => ?_
  have hkn : k < totalTaps u := by simpa using hk
  have hmod : (u.pos + k) % totalTaps u < u.hist.length := by
    rw [hhist]
    exact Nat.mod_lt _ (Nat.zero_lt_of_lt hkn)
  have hread := List.getElem?_eq_getElem hmod
  simp [firTerm, coeffRead, histRead, oldestFirst, List.getElem_rotate, hcoeff, hhist, hkn, hread, Nat.add_comm k]

/-- The filter's value after the first `n` of the pushes `vs`. -/
def firAfter (A : Arith α) (u : FirState α) (vs : List α) (n : Nat) : α := fir A ((vs.take n).foldl firPush u)

theorem firAfter_append_of_le (A : Arith α) (u : FirState α) {vs : List α} (ws : List α) {n : Nat} (h : n ≤ vs.length) :
    firAfter A u (vs ++ ws) n = firAfter A u vs n := by
  rw [firAfter, List.take_append_of_le_length h, firAfter]

/-! ### Runs -/

/-- A run, and a second one from where the first ended: the resampler at the end and the outputs of both. -/
def runBoth (first second : FirState α × List α) : FirState α × List α := (second.1, first.2 ++ second.2)

/-- A decimation in two pieces, the second going on with the count of the first. -/
theorem decimateFrom_append (A : Arith α) (xs ys : List α) (cnt : Nat) (u : FirState α) :
    decimateFrom A cnt u (xs ++ ys) =
      runBoth (decimateFrom A cnt u xs) (decimateFrom A (cnt + xs.length) (decimateFrom A cnt u xs).1 ys) := by
  induction xs generalizing cnt u with
  | nil => rfl
  | cons x xs ih =>
    rw [List.cons_append, decimateFrom, ih, List.length_cons, Nat.add_comm xs.length 1, ← Nat.add_assoc]
    simp only [decimateFrom, runBoth]
    split <;> rfl

/-- The count matters only modulo `R`. -/
theorem decimateFrom_congr (A : Arith α) (xs : List α) {cnt cnt' : Nat} {u : FirState α} (h : cnt ≡ cnt' [MOD u.r]) :
    decimateFrom A cnt u xs = decimateFrom A cnt' u xs := by
  induction xs generalizing cnt cnt' u with
  | nil => rfl
  | cons x xs ih =>
    have hnext : cnt + 1 ≡ cnt' + 1 [MOD u.r] := h.add_right 1
    rw [decimateFrom, decimateFrom, ih (u := firPush u x) hnext, hnext]

theorem decimateFrom_fst (A : Arith α) (xs : List α) (cnt : Nat) (u : FirState α) :
    (decimateFrom A cnt u xs).1 = xs.foldl firPush u := by
  induction xs generalizing cnt u with
  | nil => rfl
  | cons x xs ih => exact ih (cnt + 1) (firPush u x)

@[simp] theorem decimate_fst (A : Arith α) (u : FirState α) (xs : List α) :
    (decimate A u xs).1 = xs.foldl firPush u := decimateFrom_fst A xs 0 u

/-- R268 (e): a decimation whose first piece has a length that is a multiple of `R`. -/
theorem decimate_append (A : Arith α) {u : FirState α} {xs : List α} (ys : List α) (h : xs.length % u.r = 0) :
    decimate A u (xs ++ ys) = runBoth (decimate A u xs) (decimate A (decimate A u xs).1 ys) := by
  have hgrid : 0 + xs.length ≡ 0 [MOD (decimate A u xs).1.r] := by
    rw [Nat.zero_add, decimate_fst, foldl_firPush_r]
    exact (Nat.modEq_zero_iff_dvd).2 (Nat.dvd_of_mod_eq_zero h)
  calc decimate A u (xs ++ ys)
    _ = runBoth (decimate A u xs) (decimateFrom A (0 + xs.length) (decimate A u xs).1 ys) :=
      decimateFrom_append A xs ys 0 u
    _ = runBoth (decimate A u xs) (decimate A (decimate A u xs).1 ys) := by
      rw [decimateFrom_congr A ys hgrid]
      rfl

/-- A decimation's last sample gives an output where the count reaches a multiple of `R`. -/
theorem decimate_concat_snd (A : Arith α) (u : FirState α) (xs : List α) (x : α) :
    (decimate A u (xs ++ [x])).2 =
      (decimate A u xs).2 ++ if u.r ∣ xs.length + 1 then [fir A ((xs ++ [x]).foldl firPush u)] else [] := by
  simp [decimate, decimateFrom_append, runBoth, decimateFrom, decimateFrom_fst, Nat.dvd_iff_mod_eq_zero]

/-- R263: the outputs of a decimation, one for every `R` samples. -/
theorem decimate_snd (A : Arith α) (u : FirState α) (xs : List α) :
    (decimate A u xs).2 = (List.range (xs.length / u.r)).map fun j => firAfter A u xs (u.r * (j + 1)) := by
  induction xs using List.reverseRecOn with
  | nil => simp [decimate, decimateFrom]
  | append_singleton xs x ih =>
    have hold : ∀ j ∈ List.range (xs.length / u.r),
        firAfter A u (xs ++ [x]) (u.r * (j + 1)) = firAfter A u xs (u.r * (j + 1)) := fun j hj =>
      firAfter_append_of_le A u [x]
        ((Nat.mul_le_mul_left _ (List.mem_range.1 hj)).trans (Nat.mul_div_le xs.length u.r))
    rw [decimate_concat_snd, ih, ← List.map_congr_left hold, List.length_append, List.length_singleton, Nat.succ_div]
    split
    case isTrue hdvd =>
      have hlast : u.r * (xs.length / u.r + 1) = (xs ++ [x]).length := by
        rw [List.length_append, List.length_singleton, ← Nat.mul_div_cancel' hdvd, Nat.succ_div_of_dvd hdvd]
      rw [List.range_succ, List.map_append, List.map_singleton, hlast, firAfter, List.take_length]
    case isFalse => simp

theorem pushEach_fst (A : Arith α) (u : FirState α) (vs : List α) : (pushEach A u vs).1 = vs.foldl firPush u := by
  induction vs generalizing u with
  | nil => rfl
  | cons v vs ih => exact ih (firPush u v)

/-- The outputs of `pushEach`, one for every push. -/
theorem pushEach_snd (A : Arith α) (u : FirState α) (vs : List α) :
    (pushEach A u vs).2 = (List.range vs.length).map fun j => firAfter A u vs (j + 1) := by
  induction vs generalizing u with
  | nil => rfl
  | cons v vs ih =>
    rw [List.length_cons, List.range_succ_eq_map, List.map_cons, List.map_map]
    exact congrArg (fir A (firPush u v) :: ·) (ih (firPush u v))

theorem pushEach_append (A : Arith α) (u : FirState α) (vs ws : List α) :
    pushEach A u (vs ++ ws) = runBoth (pushEach A u vs) (pushEach A (pushEach A u vs).1 ws) := by
  induction vs generalizing u with
  | nil => rfl
  | cons v vs ih =>
    rw [List.cons_append, pushEach, ih]
    rfl

/-- The values that an interpolation pushes (R264). -/
def stuffedAll (A : Arith α) (r : Nat) (xs : List α) : List α := xs.flatMap (stuffed A r)

theorem stuffed_of_pos (A : Arith α) {r : Nat} (hr : 1 ≤ r) (x : α) :
    stuffed A r x = A.mul x (A.ofNat r) :: List.replicate (r - 1) A.zero := by
  cases r with
  | zero => cases hr
  | succ k => rfl

@[simp] theorem stuffed_length (A : Arith α) (r : Nat) (x : α) : (stuffed A r x).length = r := by
  cases r <;> simp [stuffed]

@[simp] theorem stuffedAll_length (A : Arith α) (r : Nat) (xs : List α) :
    (stuffedAll A r xs).length = xs.length * r := by
  simp [stuffedAll, List.length_flatMap]

/-- R264: an interpolation is the pushes of its stuffed input with an output after each. -/
theorem interpolate_eq_pushEach (A : Arith α) (u : FirState α) (xs : List α) :
    interpolate A u xs = pushEach A u (stuffedAll A u.r xs) := by
  induction xs generalizing u with
  | nil => rfl
  | cons x xs ih =>
    obtain ⟨hr, -⟩ := pushEach_keeps A (stuffed A u.r x) u
    rw [interpolate, ih, hr, stuffedAll, stuffedAll, List.flatMap_cons, pushEach_append]
    rfl

@[simp] theorem interpolate_fst (A : Arith α) (u : FirState α) (xs : List α) :
    (interpolate A u xs).1 = (stuffedAll A u.r xs).foldl firPush u := by
  rw [interpolate_eq_pushEach, pushEach_fst]

/-- The outputs of an interpolation, `R` for every sample. -/
theorem interpolate_snd (A : Arith α) (u : FirState α) (xs : List α) :
    (interpolate A u xs).2 =
      (List.range (xs.length * u.r)).map fun j => firAfter A u (stuffedAll A u.r xs) (j + 1) := by
  rw [interpolate_eq_pushEach, pushEach_snd, stuffedAll_length]

/-- R268 (e): an interpolation in two pieces. -/
theorem interpolate_append (A : Arith α) (u : FirState α) (xs ys : List α) :
    interpolate A u (xs ++ ys) = runBoth (interpolate A u xs) (interpolate A (interpolate A u xs).1 ys) := by
  obtain ⟨hr, -⟩ := interpolate_keeps A xs u
  rw [interpolate_eq_pushEach A (interpolate A u xs).1, hr]
  simp only [interpolate_eq_pushEach, stuffedAll, List.flatMap_append, pushEach_append]

end

/-! ### The operations -/

theorem exec_rsReset (s : State) : exec .rsReset s = .next { s with
    rsmp := firReset (fpArith s.straps.fp) s.rsmp
    result := .void } := rfl

theorem exec_rsDecimate_of_fits {s : State} {input : List Sample} (h : input.all (sampleFits s.straps.fp) = true) :
    exec (.rsDecimate input) s = .next { s with
      rsmp := input.foldl firPush s.rsmp
      result := .samples (decimate (fpArith s.straps.fp) s.rsmp input).2 } := by
  rw [← decimate_fst (fpArith s.straps.fp)]
  exact resample_next.2 ⟨h, rfl⟩

theorem exec_rsInterp_of_fits {s : State} {input : List Sample} (h : input.all (sampleFits s.straps.fp) = true) :
    exec (.rsInterp input) s = .next { s with
      rsmp := (stuffedAll (fpArith s.straps.fp) s.rsmp.r input).foldl firPush s.rsmp
      result := .samples (interpolate (fpArith s.straps.fp) s.rsmp input).2 } := by
  rw [← interpolate_fst]
  exact resample_next.2 ⟨h, rfl⟩

/-- A resampler operation whose run is that of two pieces is those two operations one after the other. -/
theorem resample_runBoth {s t : State} {xs ys : List Sample} {first second : FirState Sample × List Sample}
    (h : resample s (xs ++ ys) (runBoth first second) = .next t) :
    ∃ t2, resample s xs first = .next ((s.setRsmp first.1).setResult (.samples first.2)) ∧
      resample ((s.setRsmp first.1).setResult (.samples first.2)) ys second = .next t2 ∧
      t2.result = .samples second.2 ∧ t.result = .samples (first.2 ++ second.2) ∧ t.rsmp = t2.rsmp := by
  obtain ⟨hfits, rfl⟩ := resample_next.1 h
  rw [List.all_append, Bool.and_eq_true] at hfits
  obtain ⟨hxs, hys⟩ := hfits
  exact ⟨_, resample_next.2 ⟨hxs, rfl⟩, resample_next.2 ⟨hys, rfl⟩, rfl, rfl, rfl⟩

/-- Settles O50: the outputs of `decimate_snd`, between the pushes. -/
theorem decimatePushesAndOutputsEveryRth : Obligations.DecimatePushesAndOutputsEveryRth := by
  intro s input ⟨_, _, _, _, _, hpos⟩ hfits
  refine ⟨?_, foldl_firPush_pos hpos input, foldl_firPush_coeff input _⟩
  rw [exec_rsDecimate_of_fits hfits, decimate_snd]
  rfl

/-- Settles O51: the pushes of `interpolate_eq_pushEach`, an output after each. -/
theorem interpolateStuffsZerosAndOutputsEach : Obligations.InterpolateStuffsZerosAndOutputsEach := by
  intro s input ⟨hr, _, _, _, _, hpos⟩ hfits
  refine ⟨stuffedAll (fpArith s.straps.fp) s.rsmp.r input, ?pushed, ?exec, ?pos⟩
  case pushed => exact congrArg (input.flatMap ·) (funext (stuffed_of_pos _ hr))
  case exec =>
    rw [exec_rsInterp_of_fits hfits, interpolate_snd]
    rfl
  case pos => rw [foldl_firPush_pos hpos, stuffedAll_length]

/-- Settles O55: the runs of `interpolate_append` and `decimate_append`. -/
theorem splittingCallsAtTheGridChangesNothing : Obligations.SplittingCallsAtTheGridChangesNothing := by
  refine fun s t xs ys _ => ⟨fun h => ?interp, fun hgrid h => ?decimate⟩
  case interp =>
    change resample s (xs ++ ys) (interpolate _ _ _) = _ at h
    rw [interpolate_append] at h
    obtain ⟨t2, hfirst, hsecond, hresults⟩ := resample_runBoth h
    exact ⟨_, t2, _, _, hfirst, hsecond, rfl, hresults⟩
  case decimate =>
    change resample s (xs ++ ys) (decimate _ _ _) = _ at h
    rw [decimate_append _ ys hgrid] at h
    obtain ⟨t2, hfirst, hsecond, hresults⟩ := resample_runBoth h
    exact ⟨_, t2, _, _, hfirst, hsecond, rfl, hresults⟩

/-- Settles O54: `N` pushes drop every older value. -/
theorem filterReadsTheLastNValuesOldestFirst : Obligations.FilterReadsTheLastNValuesOldestFirst := by
  intro fmt u values hu hlen
  have hwindow : oldestFirst (values.foldl firPush u) = values := by
    rw [oldestFirst_foldl_firPush hu, hlen, ← oldestFirst_length hu, List.drop_left]
  rw [fir_eq_innerProduct _ (foldl_firPush_storage hu values), foldl_firPush_coeff, hwindow]
  rfl

/-- Settles O52: what `firReset` writes. -/
theorem resetZeroesHistoryAndPosition : Obligations.ResetZeroesHistoryAndPosition := by
  refine ⟨exec_rsReset, fun s t h => ?_⟩
  rw [exec_rsReset] at h
  cases h
  rfl

end Sys2Proof.Machine
end

section
/-! SUPPORT. NaNs and zeros in the filter on samples of the format `FP` (D3): one NaN makes the inner product the
canonical NaN, and zeros times finite coefficients add up to positive zero. -/

namespace Sys2Proof.Machine

variable {fmt : FpFormat}

/-! ### NaNs -/

theorem fpUnpack_fpNan (fmt : FpFormat) : fpUnpack fmt (fpNan fmt) = .nan := by cases fmt <;> decide

theorem fmul_nan_right {x y : Sample} (hy : fpUnpack fmt y = .nan) : fmul fmt x y = fpNan fmt := by
  cases hx : fpUnpack fmt x <;> simp [fmul, hx, hy]

@[simp] theorem fadd_fpNan_right (x : Sample) : fadd fmt x (fpNan fmt) = fpNan fmt := by
  cases hx : fpUnpack fmt x <;> simp [fadd, hx, fpUnpack_fpNan]

@[simp] theorem fadd_fpNan_left (y : Sample) : fadd fmt (fpNan fmt) y = fpNan fmt := by
  simp [fadd, fpUnpack_fpNan]

/-- A sum that has become the canonical NaN stays it. -/
theorem foldl_fadd_fpNan (terms : List Sample) : terms.foldl (fadd fmt) (fpNan fmt) = fpNan fmt :=
  List.foldlRecOn (motive := (· = fpNan fmt)) terms (fadd fmt) rfl fun acc hacc y _ => by
    rw [hacc, fadd_fpNan_left]

theorem foldl_fadd_of_fpNan_mem {terms : List Sample} (h : fpNan fmt ∈ terms) (acc : Sample) :
    terms.foldl (fadd fmt) acc = fpNan fmt := by
  obtain ⟨before, rest, rfl⟩ := List.append_of_mem h
  rw [List.foldl_append, List.foldl_cons, fadd_fpNan_right, foldl_fadd_fpNan]

/-- Settles O56: the filter reads every history element, and its term at the NaN is the canonical NaN. -/
theorem nanInTheHistoryReachesTheOutput : Obligations.NanInTheHistoryReachesTheOutput := by
  intro fmt u x hu hx hnan
  have hlen := oldestFirst_length hu
  have ⟨_, _, _, hcoeff, _, _⟩ := hu
  obtain ⟨k, hk, rfl⟩ := List.getElem_of_mem (mem_oldestFirst.2 hx)
  have hkn : k < totalTaps u := hlen ▸ hk
  have hterm : fpNan fmt ∈ List.zipWith (fmul fmt) u.coeff (oldestFirst u) := by
    refine List.mem_iff_getElem.2 ⟨k, by simp [hcoeff, hlen, hkn], ?_⟩
    rw [List.getElem_zipWith, fmul_nan_right hnan]
  rw [fir_eq_innerProduct _ hu]
  exact foldl_fadd_of_fpNan_mem hterm fzero

/-! ### Zeros -/

/-- A zero of either sign. -/
def IsFpZero (fmt : FpFormat) (x : Sample) : Prop := ∃ neg, fpUnpack fmt x = .fin neg 0

theorem fpUnpack_fzero (fmt : FpFormat) : fpUnpack fmt fzero = .fin false 0 := by cases fmt <;> decide

theorem isFpZero_fzero (fmt : FpFormat) : IsFpZero fmt fzero := ⟨false, fpUnpack_fzero fmt⟩

theorem fpRound_zero (fmt : FpFormat) (d : Nat) : fpRound fmt 0 d = 0 := by
  simp [fpRound, fpCut, bitLength, roundShift]

theorem isFpZero_fpSigned_zero (fmt : FpFormat) (neg : Bool) : IsFpZero fmt (fpSigned fmt neg 0) := by
  have hinf : 0 < fpInfBits fmt := by cases fmt <;> decide
  exact ⟨neg, by simp [fpUnpack_fpSigned neg hinf, fpMagnitude]⟩

/-- A product of finite values of which one is a zero is a zero. -/
theorem isFpZero_fmul {x y : Sample} {s s' : Bool} {a b : Nat} (hx : fpUnpack fmt x = .fin s a)
    (hy : fpUnpack fmt y = .fin s' b) (hab : a * b = 0) : IsFpZero fmt (fmul fmt x y) := by
  simp only [fmul, hx, hy, hab, fpRound_zero]
  exact isFpZero_fpSigned_zero fmt _

theorem isFpZero_fmul_right {c x : Sample} (hc : isFinite fmt c = true) (hx : IsFpZero fmt x) :
    IsFpZero fmt (fmul fmt c x) := by
  obtain ⟨s, a, hunpack, -⟩ := exists_fpUnpack_of_isFinite hc
  obtain ⟨neg, hzero⟩ := hx
  exact isFpZero_fmul hunpack hzero (Nat.mul_zero a)

theorem isFpZero_fmul_left {c x : Sample} (hc : isFinite fmt c = true) (hx : IsFpZero fmt x) :
    IsFpZero fmt (fmul fmt x c) := by
  obtain ⟨s, a, hunpack, -⟩ := exists_fpUnpack_of_isFinite hc
  obtain ⟨neg, hzero⟩ := hx
  exact isFpZero_fmul hzero hunpack (Nat.zero_mul a)

/-- Positive zero and a zero of either sign add up to positive zero (D4). -/
theorem fadd_fzero_of_isFpZero {x : Sample} (hx : IsFpZero fmt x) : fadd fmt fzero x = fzero := by
  obtain ⟨neg, hzero⟩ := hx
  have hsum : signedUnits false 0 + signedUnits neg 0 = 0 := by cases neg <;> rfl
  simp only [fadd, fpUnpack_fzero, hzero, fpAddFinite, hsum]
  rfl

theorem foldl_fadd_of_isFpZero {terms : List Sample} (h : ∀ x ∈ terms, IsFpZero fmt x) :
    terms.foldl (fadd fmt) fzero = fzero :=
  List.foldlRecOn (motive := (· = fzero)) terms (fadd fmt) rfl fun acc hacc x hx => by
    rw [hacc, fadd_fzero_of_isFpZero (h x hx)]

section
variable {u : FirState Sample}

/-- Finite coefficients and a history of zeros. -/
structure SilentFir (fmt : FpFormat) (u : FirState Sample) : Prop where
  coeff : ∀ c ∈ u.coeff, isFinite fmt c = true
  hist : ∀ x ∈ u.hist, IsFpZero fmt x

theorem SilentFir.of_reset (h : ∀ c ∈ u.coeff, isFinite fmt c = true) :
    SilentFir fmt (firReset (fpArith fmt) u) :=
  ⟨h, fun _ hx => List.eq_of_mem_replicate hx ▸ isFpZero_fzero fmt⟩

theorem SilentFir.push (h : SilentFir fmt u) {v : Sample} (hv : IsFpZero fmt v) : SilentFir fmt (firPush u v) :=
  ⟨h.coeff, fun x hx => (List.mem_or_eq_of_mem_set hx).elim (h.hist x) fun e => e ▸ hv⟩

theorem SilentFir.pushes (h : SilentFir fmt u) {vs : List Sample} (hvs : ∀ v ∈ vs, IsFpZero fmt v) :
    SilentFir fmt (vs.foldl firPush u) :=
  List.foldlRecOn (motive := SilentFir fmt) vs firPush h fun _ hw v hv => hw.push (hvs v hv)

theorem SilentFir.fir_eq (h : SilentFir fmt u) (hu : storageLegal u) : fir (fpArith fmt) u = fzero := by
  rw [fir_eq_innerProduct _ hu]
  refine foldl_fadd_of_isFpZero fun term hterm => ?_
  obtain ⟨k, hk, rfl⟩ := List.getElem_of_mem hterm
  rw [List.getElem_zipWith]
  exact isFpZero_fmul_right (h.coeff _ (List.getElem_mem _)) (h.hist _ (mem_oldestFirst.1 (List.getElem_mem _)))

/-- Zeros pushed into a silent filter give positive zero after each push. -/
theorem SilentFir.firAfter_eq (h : SilentFir fmt u) (hu : storageLegal u) {vs : List Sample}
    (hvs : ∀ v ∈ vs, IsFpZero fmt v) (n : Nat) : firAfter (fpArith fmt) u vs n = fzero :=
  (h.pushes fun v hv => hvs v (List.mem_of_mem_take hv)).fir_eq (foldl_firPush_storage hu _)

/-- A zero input is pushed as zeros, the ratio being a finite value. -/
theorem isFpZero_of_mem_stuffedAll {r : Nat} (hr : isFinite fmt (fofint fmt r) = true) {xs : List Sample}
    (hxs : ∀ x ∈ xs, IsFpZero fmt x) {v : Sample} (hv : v ∈ stuffedAll (fpArith fmt) r xs) : IsFpZero fmt v := by
  obtain ⟨x, hx, hv⟩ := List.mem_flatMap.1 hv
  cases r with
  | zero => cases hv
  | succ k =>
    obtain rfl | hzero := List.mem_cons.1 hv
    · exact isFpZero_fmul_left hr (hxs x hx)
    · exact List.eq_of_mem_replicate hzero ▸ isFpZero_fzero fmt

end

/-- Settles O53: the reset filter is silent and stays so under zeros. -/
theorem resetThenZeroInputGivesZeroOutput : Obligations.ResetThenZeroInputGivesZeroOutput := by
  intro s t n hs hcoeff ht
  rw [exec_rsReset] at ht
  cases ht
  have hu := firReset_storage (fpArith s.straps.fp) hs
  have hsilent := SilentFir.of_reset hcoeff
  have hfits : (List.replicate n fzero).all (sampleFits s.straps.fp) = true := by simp
  have hzeros : ∀ x ∈ List.replicate n fzero, IsFpZero s.straps.fp x :=
    fun _ hx => List.eq_of_mem_replicate hx ▸ isFpZero_fzero _
  refine ⟨⟨_, exec_rsDecimate_of_fits hfits, ?decimate⟩, fun hr => ⟨_, exec_rsInterp_of_fits hfits, ?interp⟩⟩
  case decimate => simp [decimate_snd, hsilent.firAfter_eq hu hzeros]
  case interp =>
    simp [interpolate_snd, hsilent.firAfter_eq hu fun _ => isFpZero_of_mem_stuffedAll hr hzeros]

end Sys2Proof.Machine
end

section
/-! SUPPORT. The filter in exact arithmetic (R268): it is linear in the history and the input, and a constant comes out
times the sum of the coefficients. -/

namespace Sys2Proof.Machine

theorem fir_exactArith (u : FirState ℚ) :
    fir exactArith u = ((List.range (totalTaps u)).map (firTerm exactArith u)).sum := by
  rw [fir_eq_foldl_map, List.sum_eq_foldl]
  rfl

section
variable {a b : ℚ} {u v : FirState ℚ}

/-- The linear combination `a x + b y`, element by element. -/
def mixLists (a b : ℚ) : List ℚ → List ℚ → List ℚ := List.zipWith fun x y => a * x + b * y

/-- The resampler whose history is the linear combination of the histories of `u` and `v`. -/
def mixStates (a b : ℚ) (u v : FirState ℚ) : FirState ℚ := { u with hist := mixLists a b u.hist v.hist }

/-- Two resamplers that differ in their histories only, those being of one length. -/
structure SameForm (u v : FirState ℚ) : Prop where
  eq : v = { u with hist := v.hist }
  length : u.hist.length = v.hist.length

theorem SameForm.push (h : SameForm u v) (x y : ℚ) : SameForm (firPush u x) (firPush v y) := by
  obtain ⟨hv, hlen⟩ := h
  rw [hv]
  exact ⟨rfl, by simpa using hlen⟩

theorem mixLists_set (xs ys : List ℚ) (i : Nat) (x y : ℚ) :
    (mixLists a b xs ys).set i (a * x + b * y) = mixLists a b (xs.set i x) (ys.set i y) := by
  refine List.ext_getElem (by simp [mixLists]) fun k hk hk' => ?_
  by_cases hik : i = k <;> simp [mixLists, hik]

/-- A push of a combination into a combination is the combination of two pushes. -/
theorem firPush_mixStates (h : SameForm u v) (x y : ℚ) :
    firPush (mixStates a b u v) (a * x + b * y) = mixStates a b (firPush u x) (firPush v y) := by
  obtain ⟨hv, -⟩ := h
  rw [hv]
  exact congrArg (fun hist => { firPush u x with hist }) (mixLists_set _ _ _ _ _)

theorem foldl_firPush_mixStates {xs ys : List ℚ} (hlen : xs.length = ys.length) (h : SameForm u v) :
    (mixLists a b xs ys).foldl firPush (mixStates a b u v) = mixStates a b (xs.foldl firPush u) (ys.foldl firPush v) ∧
      SameForm (xs.foldl firPush u) (ys.foldl firPush v) := by
  induction xs generalizing ys u v with
  | nil =>
    obtain rfl := List.length_eq_zero_iff.1 hlen.symm
    exact ⟨rfl, h⟩
  | cons x xs ih =>
    obtain ⟨y, ys, rfl⟩ := List.exists_cons_of_length_eq_add_one hlen.symm
    obtain ⟨hfold, hform⟩ := ih (Nat.succ.inj hlen) (h.push x y)
    rw [← firPush_mixStates h] at hfold
    exact ⟨hfold, hform⟩

theorem firTerm_mixStates (h : SameForm u v) (k : Nat) :
    firTerm exactArith (mixStates a b u v) k = a * firTerm exactArith u k + b * firTerm exactArith v k := by
  obtain ⟨hv, hlen⟩ := h
  have hread (i : Nat) : (mixLists a b u.hist v.hist).getD i 0 = a * u.hist.getD i 0 + b * v.hist.getD i 0 := by
    obtain hi | hi := Nat.lt_or_ge i u.hist.length
    · simp [mixLists, hi, hlen ▸ hi]
    · simp [mixLists, hi, hlen ▸ hi]
  have hmul (c x y : ℚ) : c * (a * x + b * y) = a * (c * x) + b * (c * y) := by ring
  rw [hv]
  exact (congrArg (coeffRead exactArith u k * ·) (hread _)).trans (hmul _ _ _)

/-- R268 (a): the filter is linear in the history. -/
theorem fir_mixStates (h : SameForm u v) :
    fir exactArith (mixStates a b u v) = a * fir exactArith u + b * fir exactArith v := by
  have htaps : totalTaps v = totalTaps u := by rw [h.eq]; rfl
  have htaps' : totalTaps (mixStates a b u v) = totalTaps u := rfl
  simp only [fir_exactArith, htaps, htaps', funext (firTerm_mixStates h), List.sum_map_add, List.sum_map_mul_left]

theorem firAfter_mixStates {xs ys : List ℚ} (hlen : xs.length = ys.length) (h : SameForm u v) (n : Nat) :
    firAfter exactArith (mixStates a b u v) (mixLists a b xs ys) n =
      a * firAfter exactArith u xs n + b * firAfter exactArith v ys n := by
  have htake : (xs.take n).length = (ys.take n).length := by simp [hlen]
  obtain ⟨hfold, hform⟩ := foldl_firPush_mixStates (a := a) (b := b) htake h
  rw [firAfter, mixLists, List.take_zipWith, ← mixLists, hfold, fir_mixStates hform, firAfter, firAfter]

theorem mixLists_map {ι : Type} (f g : ι → ℚ) (is : List ι) :
    mixLists a b (is.map f) (is.map g) = is.map fun i => a * f i + b * g i := by
  rw [mixLists, List.zipWith_map, List.zipWith_self]

theorem mixLists_length {xs ys : List ℚ} (hlen : xs.length = ys.length) :
    (mixLists a b xs ys).length = xs.length := by
  simp [mixLists, hlen]

theorem decimate_mixStates {xs ys : List ℚ} (hlen : xs.length = ys.length) (h : SameForm u v) :
    (decimate exactArith (mixStates a b u v) (mixLists a b xs ys)).2 =
      mixLists a b (decimate exactArith u xs).2 (decimate exactArith v ys).2 := by
  have hr : v.r = u.r := by rw [h.eq]
  have hr' : (mixStates a b u v).r = u.r := rfl
  simp only [decimate_snd, mixLists_length hlen, hr, hr', ← hlen, firAfter_mixStates hlen h, mixLists_map]

theorem mixLists_stuffed (r : Nat) (x y : ℚ) :
    stuffed exactArith r (a * x + b * y) = mixLists a b (stuffed exactArith r x) (stuffed exactArith r y) := by
  cases r with
  | zero => rfl
  | succ k => simp [stuffed, exactArith, mixLists]; ring

/-- The pushes of an interpolation are linear in its input. -/
theorem stuffedAll_mixLists (r : Nat) {xs ys : List ℚ} (hlen : xs.length = ys.length) :
    stuffedAll exactArith r (mixLists a b xs ys) =
      mixLists a b (stuffedAll exactArith r xs) (stuffedAll exactArith r ys) := by
  induction xs generalizing ys with
  | nil => rfl
  | cons x xs ih =>
    obtain ⟨y, ys, rfl⟩ := List.exists_cons_of_length_eq_add_one hlen.symm
    have hhead : (stuffed exactArith r x).length = (stuffed exactArith r y).length := by simp
    calc stuffedAll exactArith r (mixLists a b (x :: xs) (y :: ys))
      _ = stuffed exactArith r (a * x + b * y) ++ stuffedAll exactArith r (mixLists a b xs ys) := rfl
      _ = mixLists a b (stuffedAll exactArith r (x :: xs)) (stuffedAll exactArith r (y :: ys)) := by
        rw [mixLists_stuffed, ih (Nat.succ.inj hlen)]
        exact (List.zipWith_append hhead).symm

theorem interpolate_mixStates {xs ys : List ℚ} (hlen : xs.length = ys.length) (h : SameForm u v) :
    (interpolate exactArith (mixStates a b u v) (mixLists a b xs ys)).2 =
      mixLists a b (interpolate exactArith u xs).2 (interpolate exactArith v ys).2 := by
  have hr : v.r = u.r := by rw [h.eq]
  have hr' : (mixStates a b u v).r = u.r := rfl
  have hstuffed : (stuffedAll exactArith u.r xs).length = (stuffedAll exactArith u.r ys).length := by simp [hlen]
  simp only [interpolate_snd, mixLists_length hlen, hr, hr', ← hlen, stuffedAll_mixLists u.r hlen,
    firAfter_mixStates hstuffed h, mixLists_map]

end

/-- Settles O57: the filter is linear after every push, and the outputs are filter values between the pushes. -/
theorem exactFilterIsLinear : Obligations.ExactFilterIsLinear := by
  intro a b r t pos coeff h h' xs ys hh hh' _ hlen
  have hform : SameForm ⟨r, t, coeff, h, pos⟩ ⟨r, t, coeff, h', pos⟩ := ⟨rfl, hh.trans hh'.symm⟩
  exact ⟨decimate_mixStates hlen hform, interpolate_mixStates hlen hform⟩

/-- Settles O58: `N` or more pushes of `x` leave a history of `x` only. -/
theorem exactDcGainIsTheCoefficientSum : Obligations.ExactDcGainIsTheCoefficientSum := by
  intro u x n hu hn
  have ⟨_, _, _, hcoeff, _, _⟩ := hu
  have hwindow : oldestFirst ((List.replicate n x).foldl firPush u) = u.coeff.map fun _ => x := by
    rw [oldestFirst_foldl_firPush hu, List.length_replicate, List.drop_append, oldestFirst_length hu,
      List.drop_eq_nil_of_le ((oldestFirst_length hu).trans_le hn), List.drop_replicate, Nat.sub_sub_self hn,
      List.map_const', hcoeff, List.nil_append]
  calc fir exactArith ((List.replicate n x).foldl firPush u)
    _ = (List.zipWith (· * ·) u.coeff (u.coeff.map fun _ => x)).sum := by
      rw [fir_eq_innerProduct _ (foldl_firPush_storage hu _), foldl_firPush_coeff, hwindow, List.sum_eq_foldl]
      rfl
    _ = (u.coeff.map fun c => x * c).sum := by
      rw [List.zipWith_map_right, List.zipWith_self]
      simp only [mul_comm]
    _ = x * u.coeff.sum := by rw [List.sum_map_mul_left, List.map_id']

end Sys2Proof.Machine
end

section
/-! SUPPORT. What is refused and what is withheld: no operation faults (R290, R292), and a unit that is not ready keeps its
frames (R298). -/

namespace Sys2Proof.Machine

/-! ### Admission -/

/-- Every operation, of either unit, runs exactly where the straps admit it. -/
theorem exec_runsAs (i : Instr) : ∃ next, RunsAs (fun p => admitted p i) next (exec i) := by
  cases hi : isResampler i with
  | false =>
    obtain ⟨m, hm⟩ := exec_actsOnCat hi
    exact ⟨m.next, hm⟩
  | true =>
    obtain ⟨m, hm⟩ := exec_actsOnRsmp hi
    exact ⟨m.next, hm⟩

/-- Settles O13: both outcomes of `RunsAs`. -/
theorem operationsRunExactlyWhenAdmitted : Obligations.OperationsRunExactlyWhenAdmitted := by
  intro i s
  obtain ⟨next, hruns⟩ := exec_runsAs i
  obtain ⟨hadmitted, hrefused⟩ := hruns s
  exact ⟨fun ha => ⟨next s, hadmitted ha⟩, hrefused⟩

/-! ### A unit that is not ready -/

theorem emissions_of_not_ready {s : State} (h : s.cat.ready = false) (frames : List Frame) : emissions s frames = [] := by
  simp [emissions, h]

/-- An operation on a unit that is not ready adds acknowledges only: without arriving bytes its emissions are withheld, and
a reception emits no frame. -/
theorem exec_adds_acks_of_not_ready {i : Instr} {s t : State} (hready : s.cat.ready = false) (h : exec i s = .next t) :
    ∃ new, t.events = s.events ++ new ∧ ∀ e ∈ new, ∃ cb, e = .ack cb := by
  cases hi : receives i with
  | false =>
    have hevents := exec_events_of_not_receives hi h
    rw [emissions_of_not_ready hready] at hevents
    exact ⟨[], hevents, nofun⟩
  | true =>
    obtain ⟨bytes, hexec⟩ := exec_of_receives hi
    obtain ⟨n, hn⟩ := receive_events s bytes
    rw [hexec] at h
    cases h
    refine ⟨_, hn, fun e he => ?_⟩
    obtain ⟨cb, -, hack⟩ := eq_ack_of_mem_ackEvents (mem_replicate_flatten he)
    exact ⟨cb, hack⟩

section
variable {s t : State} {new : List Event} (hevents : t.events = s.events ++ new) (hacks : ∀ e ∈ new, ∃ cb, e = .ack cb)
include hevents hacks

/-- Acknowledges are no frames of a byte sink. -/
theorem txcb_of_acks_appended : txcb t = txcb s := by
  rw [txcb, hevents, List.filterMap_append]
  refine List.append_right_eq_self.2 (List.filterMap_eq_nil_iff.2 fun e he => ?_)
  obtain ⟨cb, rfl⟩ := hacks e he
  rfl

/-- Acknowledges are no frames of the serial transport. -/
theorem txser_of_acks_appended : txser t = txser s := by
  rw [txser, hevents, List.filterMap_append]
  refine List.append_right_eq_self.2 (List.filterMap_eq_nil_iff.2 fun e he => ?_)
  obtain ⟨cb, rfl⟩ := hacks e he
  rfl

end

/-- Settles O14: what a unit that is not ready adds to the record are acknowledges, which neither destination receives. -/
theorem noFrameLeavesWhenNotReady : Obligations.NoFrameLeavesWhenNotReady := by
  intro i s t hready h
  obtain ⟨new, hevents, hacks⟩ := exec_adds_acks_of_not_ready hready h
  exact ⟨txcb_of_acks_appended hevents hacks, txser_of_acks_appended hevents hacks⟩

end Sys2Proof.Machine
end
